-- ==== Sys2Proof/Word.lean ====
section
/-! DEFINITION. The widths the spec gives the block's ports and registers (R7, R20, R50). -/

namespace Sys2Proof

/-- A byte is 8 bits (R7): a register, a data port, a register address. -/
abbrev Byte := BitVec 8

/-- The signed result port `r16` (R50). -/
abbrev Word16 := BitVec 16

/-- The `year` port of a CivilTime record is 9 bits wide (R20). -/
abbrev Year := BitVec 9

/-- An I2C device address is 7 bits wide (R6, R17). -/
abbrev DevAddr := BitVec 7

end Sys2Proof
end

