-- ==== Sys2Proof/Config.lean ====
section
/-! DEFINITION. The configuration registers of the block (R6, R15) with the values R6 gives, and the free values: what
the spec leaves to the environment under no law (R8 `draw`, R31, R141). -/

namespace Sys2Proof

/-- The chip variant `CHIP` (R6, R9): the 3-wire chip and the I2C chips A to D. -/
inductive Chip where
  | w3
  | a
  | b
  | c
  | d
deriving DecidableEq, Repr

/-- `RAM_STRIDE`, the address step per RAM index: 1 or 2 (R6). -/
inductive RamStride where
  | one
  | two
deriving DecidableEq, Repr

/-- The step as a number. -/
def RamStride.toNat : RamStride → Nat
  | .one => 1
  | .two => 2

/-- `RAM_SENTINEL`, what an out-of-range RAM read returns: 0x00 or 0xFF (R6, R190). -/
inductive RamSentinel where
  | zeros
  | ones
deriving DecidableEq, Repr

/-- The sentinel as a byte. -/
def RamSentinel.toByte : RamSentinel → Byte
  | .zeros => 0x00#8
  | .ones => 0xFF#8

/-- `YEAR_BIAS`, added to the decoded year on chips with no century bit: 0 or 100 (R6, R144). -/
inductive YearBias where
  | zero
  | hundred
deriving DecidableEq, Repr

/-- The bias as a number. -/
def YearBias.toNat : YearBias → Nat
  | .zero => 0
  | .hundred => 100

/-- `FIELD_MASKS`: the AND masks applied to the bytes of a time burst before they are decoded (R6, R127). -/
structure FieldMasks where
  second : Byte
  minute : Byte
  hour : Byte
  date : Byte
  month : Byte
  /-- weekday, numeric forms (3W, A, B, D) -/
  wdayNum : Byte
  /-- weekday, one-hot form (C) -/
  wdayHot : Byte
  year : Byte
deriving DecidableEq, Repr

/-- The table of R127. -/
def FieldMasks.table : FieldMasks :=
  { second := 0x7F#8, minute := 0x7F#8, hour := 0x3F#8, date := 0x3F#8, month := 0x1F#8,
    wdayNum := 0x07#8, wdayHot := 0x7F#8, year := 0xFF#8 }

/-- The default `TCS_TABLE`: the six recognised trickle-charger bytes of R175 with their modes. -/
def tcsDefault : List (Byte × Fin 7) :=
  [(0xA5#8, 1), (0xA6#8, 2), (0xA7#8, 3), (0xA9#8, 4), (0xAA#8, 5), (0xAB#8, 6)]

/-- The configuration registers, one for each parameter of R6: written before the first operation, constant afterwards
(R15). -/
structure Params where
  chip : Chip
  tSettle : Nat
  tSetup : Nat
  tHold : Nat
  burstRd : Byte
  burstWr : Byte
  burstRdLen : Nat
  wpTerminator : Byte
  regWp : Byte
  devAddr : DevAddr
  timeBase : Byte
  ramSize : Nat
  ramBase : Byte
  ramStride : RamStride
  ramSentinel : RamSentinel
  yearBias : YearBias
  alarmMaskActive : Bool
  selBit : Fin 7
  ddSelDate : Bool
  tcsTable : List (Byte × Fin 7)
  masks : FieldMasks
  regStatus : Byte
  regControl : Byte
  regAging : Byte
  regTempHi : Byte
  regTempLo : Byte
  regAlarm1 : Byte
  regAlarm2 : Byte
  regTcs : Byte
  regSec : Byte
  regDdAlarm : Byte
  regDdSel : Byte
  ddSelMask : Byte
  runReg : Byte
  runMask : Byte
  runStopValue : Byte
  regVl : Byte
  vlMask : Byte
  initImage : List (Byte × Byte)
deriving DecidableEq, Repr

/-- `RAM_SIZE` of a chip, where the spec fixes it: 31 on 3W and 56 on A (R6, R190; D31). OPEN on B, C and D. -/
def Chip.ramSize : Chip → Option Nat
  | .w3 => some 31
  | .a => some 56
  | .b => none
  | .c => none
  | .d => none

/-- `RAM_STRIDE` of a chip (R6, R72, R189). -/
def Chip.ramStride : Chip → RamStride
  | .w3 => .two
  | .a => .one
  | .b => .one
  | .c => .one
  | .d => .one

/-- `RUN_MASK` and `RUN_STOP_VALUE` of a chip, where the spec fixes them: the clock-halt bit of 3W and A (R195). OPEN on B,
C and D. -/
def Chip.runFlag : Chip → Option (Byte × Byte)
  | .w3 => some (0x80#8, 0x01#8)
  | .a => some (0x80#8, 0x01#8)
  | .b => none
  | .c => none
  | .d => none

/-- `VL_MASK` of a chip, where the spec fixes it: 0x80 on D (R116). -/
def Chip.vlMask : Chip → Option Byte
  | .w3 => none
  | .a => none
  | .b => none
  | .c => none
  | .d => some 0x80#8

/-- One instance's configuration of each chip: R6's own value for every parameter that has one, and the value of log 2
(DESIGN CHOICE), 0 for a number, for every OPEN parameter. -/
def Params.ofChip (v : Chip) : Params :=
  { chip := v, tSettle := 1, tSetup := 4, tHold := 4, burstRd := 0xBF#8, burstWr := 0xBE#8, burstRdLen := 7,
    wpTerminator := 0x00#8, regWp := 0x00#8, devAddr := 0#7, timeBase := 0x00#8, ramSize := v.ramSize.getD 0,
    ramBase := 0x00#8, ramStride := v.ramStride, ramSentinel := .zeros, yearBias := .zero, alarmMaskActive := true,
    selBit := 6, ddSelDate := true, tcsTable := tcsDefault, masks := FieldMasks.table, regStatus := 0x00#8,
    regControl := 0x00#8, regAging := 0x00#8, regTempHi := 0x00#8, regTempLo := 0x00#8, regAlarm1 := 0x00#8,
    regAlarm2 := 0x00#8, regTcs := 0x00#8, regSec := 0x00#8, regDdAlarm := 0x00#8, regDdSel := 0x00#8,
    ddSelMask := 0x00#8, runReg := 0x00#8, runMask := (v.runFlag.getD (0x00#8, 0x00#8)).1,
    runStopValue := (v.runFlag.getD (0x00#8, 0x00#8)).2, regVl := 0x00#8, vlMask := v.vlMask.getD 0x00#8,
    initImage := [] }

/-- The configuration of `State.reset`: the 3-wire chip (log 2). -/
def Params.standard : Params := Params.ofChip .w3

/-- A value stands where the spec fixes one; where it fixes none any value does. -/
def fixedBy {α : Type} [DecidableEq α] (fixed : Option α) (x : α) : Bool :=
  match fixed with
  | some v => decide (x = v)
  | none => true

/-- What the spec fixes of the configuration for each chip: the RAM size and stride (R72, R190), the running-state flag of
3W and A (R195), the voltage-low flag of D (R116), and a write code for every 3-wire register (R53). The registers
themselves hold whatever the host wrote (R15); this says that it wrote what the spec says (log 17). -/
def Params.agreesWithChip (p : Params) : Bool :=
  fixedBy p.chip.ramSize p.ramSize && decide (p.ramStride = p.chip.ramStride) &&
  fixedBy p.chip.runFlag (p.runMask, p.runStopValue) && fixedBy p.chip.vlMask p.vlMask &&
  match p.chip with
  | .w3 => p.runReg == p.regSec
      && !p.regSec.getLsbD 0 && !p.regWp.getLsbD 0 && !p.regTcs.getLsbD 0 && !p.ramBase.getLsbD 0
  | .a => p.runReg == p.timeBase
  | .b => true
  | .c => true
  | .d => p.regVl == p.timeBase

/-- Free value: the data-line level the device presents when no level has been given for it (R31, U15; log 3). -/
opaque Config.freeLevel : Nat → Bool

/-- Free value: the byte the I2C primitive returns when none has been given (R31, U7, U15; log 3). -/
opaque Config.freeByte : Nat → Byte

/-- Free value: the status `i2c.end` returns when none has been given (R17; log 3). -/
opaque Config.freeStatus : Nat → Nat

/-- Free value: the weekday of a one-hot byte with no bit set, `draw(0..255)` (R141, U4; log 9). -/
opaque Config.freeWday : Nat → Byte

/-- Free value: whether `RUN.SET c` wants the flag on when `RUN_STOP_VALUE` is neither 0 nor 1, so that `c XOR
RUN_STOP_VALUE` is no boolean (R194; log 14). -/
opaque Config.freeRunWanted : Bool → Byte → Bool

end Sys2Proof
end

