-- ==== Sys2Proof/Syntax.lean ====
section
/-! DEFINITION. The operations of the block: one constructor for each row of the opcode map (R3, R52). The opcode
carries no operand bits (R51): operands stand on the operand ports of R50, so no constructor has an argument. -/

namespace Sys2Proof

/-- The 45 operations of the block, in the order of R52's table. -/
inductive Instr where
  /-- `BCD.DEC` (R80): operands a; results r. -/
  | bcdDec
  /-- `BCD.ENC` (R81): operands a; results r. -/
  | bcdEnc
  /-- `SER.WRB` (R91): operands a; results none. -/
  | serWrb
  /-- `SER.RDB` (R93): operands none; results r. -/
  | serRdb
  /-- `TXN.BEGIN` (R96): operands none; results none. -/
  | txnBegin
  /-- `TXN.END` (R97): operands none; results none. -/
  | txnEnd
  /-- `W3.RD` (R100): operands a (read code); results r. -/
  | w3Rd
  /-- `W3.WR` (R101): operands a (write code), b; results none. -/
  | w3Wr
  /-- `W3.BRD` (R102): operands a (command), n; results rbuf[0..n-1]. -/
  | w3Brd
  /-- `W3.BWR` (R103): operands a (command), n, buf; results none. -/
  | w3Bwr
  /-- `I2C.RD` (R111): operands a; results r. -/
  | i2cRd
  /-- `I2C.WR` (R112): operands a, b; results none. -/
  | i2cWr
  /-- `I2C.BRD` (R113): operands a, n; results rbuf[0..n-1]. -/
  | i2cBrd
  /-- `I2C.BWR` (R114): operands a, n, buf; results none. -/
  | i2cBwr
  /-- `I2C.PROBE` (R115): operands none; results present. -/
  | i2cProbe
  /-- `TIME.DEC.3W` (R130): operands buf[0..6]; results rt. -/
  | timeDec3W
  /-- `TIME.DEC.A` (R132): operands buf[0..6]; results rt. -/
  | timeDecA
  /-- `TIME.DEC.B` (R134): operands buf[0..6]; results rt. -/
  | timeDecB
  /-- `TIME.DEC.C` (R136): operands buf[0..6]; results rt. -/
  | timeDecC
  /-- `TIME.DEC.D` (R138): operands buf[0..6]; results rt. -/
  | timeDecD
  /-- `TIME.GET` (R145): operands none; results rt. -/
  | timeGet
  /-- `TIME.SET` (R146): operands t; results none. -/
  | timeSet
  /-- `TIME.ENC.3W` (R131): operands t; results rbuf[0..7]. -/
  | timeEnc3W
  /-- `TIME.ENC.A` (R133): operands t; results rbuf[0..6]. -/
  | timeEncA
  /-- `TIME.ENC.B` (R135): operands t; results rbuf[0..6]. -/
  | timeEncB
  /-- `TIME.ENC.C` (R137): operands t; results rbuf[0..6]. -/
  | timeEncC
  /-- `TIME.ENC.D` (R139): operands t; results rbuf[0..6]. -/
  | timeEncD
  /-- `ALM4.DEC` (R158): operands buf[0..3]; results rrate, rt, rate_invalid. -/
  | alm4Dec
  /-- `ALM4.ENC` (R159): operands rate, t; results rbuf[0..3]. -/
  | alm4Enc
  /-- `ALM3.DEC` (R163): operands buf[0..2]; results rrate, rt, rate_invalid. -/
  | alm3Dec
  /-- `ALM3.ENC` (R164): operands rate, t; results rbuf[0..2]. -/
  | alm3Enc
  /-- `ALMD.DEC` (R168): operands buf[0..2], c (selector); results rdd. -/
  | almdDec
  /-- `ALMD.ENC` (R169): operands dd, c (current selector); results rbuf[0..2], rsel. -/
  | almdEnc
  /-- `TCS.DEC` (R175): operands a; results r, rate_invalid. -/
  | tcsDec
  /-- `FLAG.EVAL` (R180): operands a (current), b (mask), c; results r, wr_needed. -/
  | flagEval
  /-- `FLAG.SET` (R181): operands a (reg), b (mask), c; results wr_needed. -/
  | flagSet
  /-- `FLAG.GET` (R182): operands a (reg), b (mask); results r (0 or 1). -/
  | flagGet
  /-- `RAM.RD` (R187): operands a (index); results r, oor. -/
  | ramRd
  /-- `RAM.WR` (R188): operands a (index), b; results oor. -/
  | ramWr
  /-- `REG.RD` (R185): operands a (reg); results r. -/
  | regRd
  /-- `REG.WR` (R186): operands a (reg), b; results none. -/
  | regWr
  /-- `RUN.GET` (R193): operands none; results r (0 or 1). -/
  | runGet
  /-- `RUN.SET` (R194): operands c; results wr_needed. -/
  | runSet
  /-- `AGE.DEC` (R198): operands a; results r16. -/
  | ageDec
  /-- `TEMP.DEC` (R199): operands a (hi), b (lo); results r16. -/
  | tempDec
deriving DecidableEq, Repr

/-- The mnemonic of an operation as the opcode map spells it (R52). -/
def Instr.mnemonic : Instr → String
  | .bcdDec => "BCD.DEC"
  | .bcdEnc => "BCD.ENC"
  | .serWrb => "SER.WRB"
  | .serRdb => "SER.RDB"
  | .txnBegin => "TXN.BEGIN"
  | .txnEnd => "TXN.END"
  | .w3Rd => "W3.RD"
  | .w3Wr => "W3.WR"
  | .w3Brd => "W3.BRD"
  | .w3Bwr => "W3.BWR"
  | .i2cRd => "I2C.RD"
  | .i2cWr => "I2C.WR"
  | .i2cBrd => "I2C.BRD"
  | .i2cBwr => "I2C.BWR"
  | .i2cProbe => "I2C.PROBE"
  | .timeDec3W => "TIME.DEC.3W"
  | .timeDecA => "TIME.DEC.A"
  | .timeDecB => "TIME.DEC.B"
  | .timeDecC => "TIME.DEC.C"
  | .timeDecD => "TIME.DEC.D"
  | .timeGet => "TIME.GET"
  | .timeSet => "TIME.SET"
  | .timeEnc3W => "TIME.ENC.3W"
  | .timeEncA => "TIME.ENC.A"
  | .timeEncB => "TIME.ENC.B"
  | .timeEncC => "TIME.ENC.C"
  | .timeEncD => "TIME.ENC.D"
  | .alm4Dec => "ALM4.DEC"
  | .alm4Enc => "ALM4.ENC"
  | .alm3Dec => "ALM3.DEC"
  | .alm3Enc => "ALM3.ENC"
  | .almdDec => "ALMD.DEC"
  | .almdEnc => "ALMD.ENC"
  | .tcsDec => "TCS.DEC"
  | .flagEval => "FLAG.EVAL"
  | .flagSet => "FLAG.SET"
  | .flagGet => "FLAG.GET"
  | .ramRd => "RAM.RD"
  | .ramWr => "RAM.WR"
  | .regRd => "REG.RD"
  | .regWr => "REG.WR"
  | .runGet => "RUN.GET"
  | .runSet => "RUN.SET"
  | .ageDec => "AGE.DEC"
  | .tempDec => "TEMP.DEC"

/-- Every operation once, in the order of R52's table. -/
def Instr.all : List Instr :=
  [.bcdDec, .bcdEnc, .serWrb, .serRdb, .txnBegin, .txnEnd,
   .w3Rd, .w3Wr, .w3Brd, .w3Bwr, .i2cRd, .i2cWr,
   .i2cBrd, .i2cBwr, .i2cProbe, .timeDec3W, .timeDecA, .timeDecB,
   .timeDecC, .timeDecD, .timeGet, .timeSet, .timeEnc3W, .timeEncA,
   .timeEncB, .timeEncC, .timeEncD, .alm4Dec, .alm4Enc, .alm3Dec,
   .alm3Enc, .almdDec, .almdEnc, .tcsDec, .flagEval, .flagSet,
   .flagGet, .ramRd, .ramWr, .regRd, .regWr, .runGet,
   .runSet, .ageDec, .tempDec]

end Sys2Proof
end

