-- ==== Sys2Proof/WellFormed.lean ====
section
/-! DEFINITION. When the block accepts a requested operation (R75): the transport family must exist on `CHIP` and a burst
length must be in 1..8. (The third ground of R75, a reserved opcode, is the decoder's.) -/

namespace Sys2Proof

/-- The operation families of R51. -/
inductive Family where
  | bcd
  | serial
  | i2c
  | time
  | alarm
  | accessor
deriving DecidableEq, Repr

/-- The family of each operation (R3, R51). -/
def Instr.family : Instr → Family
  | .bcdDec | .bcdEnc => .bcd
  | .serWrb | .serRdb | .txnBegin | .txnEnd | .w3Rd | .w3Wr | .w3Brd | .w3Bwr => .serial
  | .i2cRd | .i2cWr | .i2cBrd | .i2cBwr | .i2cProbe => .i2c
  | .timeDec3W | .timeDecA | .timeDecB | .timeDecC | .timeDecD | .timeGet | .timeSet
  | .timeEnc3W | .timeEncA | .timeEncB | .timeEncC | .timeEncD => .time
  | .alm4Dec | .alm4Enc | .alm3Dec | .alm3Enc | .almdDec | .almdEnc | .tcsDec => .alarm
  | .flagEval | .flagSet | .flagGet | .ramRd | .ramWr | .regRd | .regWr | .runGet | .runSet
  | .ageDec | .tempDec => .accessor

/-- The number of a family in bits 7:4 of the opcode (R51). -/
def Family.number : Family → BitVec 4
  | .bcd => 1
  | .serial => 2
  | .i2c => 3
  | .time => 4
  | .alarm => 5
  | .accessor => 6

/-- A serial operation needs the 3-wire chip and an I2C operation one of the I2C chips (R75). -/
def Family.existsOn : Family → Chip → Bool
  | .serial, v => v == .w3
  | .i2c, v => v != .w3
  | .bcd, _ => true
  | .time, _ => true
  | .alarm, _ => true
  | .accessor, _ => true

/-- The burst length an operation takes: the port `n` of the four burst operations (R102, R103, R113, R114), and the
`BURST_RD_LEN_3W` register of `TIME.GET` on the 3-wire chip (R145). Other operations take none. -/
def Instr.burstLength (i : Instr) (p : Params) (n : BitVec 4) : Option Nat :=
  match i with
  | .w3Brd | .w3Bwr | .i2cBrd | .i2cBwr => some n.toNat
  | .timeGet => if p.chip = .w3 then some p.burstRdLen else none
  | .bcdDec | .bcdEnc | .serWrb | .serRdb | .txnBegin | .txnEnd | .w3Rd | .w3Wr
  | .i2cRd | .i2cWr | .i2cProbe
  | .timeDec3W | .timeDecA | .timeDecB | .timeDecC | .timeDecD | .timeSet
  | .timeEnc3W | .timeEncA | .timeEncB | .timeEncC | .timeEncD
  | .alm4Dec | .alm4Enc | .alm3Dec | .alm3Enc | .almdDec | .almdEnc | .tcsDec
  | .flagEval | .flagSet | .flagGet | .ramRd | .ramWr | .regRd | .regWr | .runGet | .runSet
  | .ageDec | .tempDec => none

/-- The block accepts the operation under configuration `p` with burst length port `n` (R75). -/
def Instr.wellFormed (i : Instr) (p : Params) (n : BitVec 4) : Bool :=
  i.family.existsOn p.chip &&
    match i.burstLength p n with
    | none => true
    | some k => decide (1 ≤ k) && decide (k ≤ 8)

end Sys2Proof
end

