-- ==== Sys2Proof/Decode.lean ====
section
/-! DEFINITION. The opcode format OP8 and its decoder and encoder (R51, R52, R75). -/

namespace Sys2Proof

/-- Why the decoder rejects a byte: it is not an opcode of R52 (R75). -/
inductive DecodeError where
  | reservedOpcode (op : Byte)
deriving DecidableEq, Repr

/-- The opcode map of R52, one entry for each row. -/
def opcodeMap : List (Byte × Instr) :=
  [(0x10#8, .bcdDec), (0x11#8, .bcdEnc), (0x20#8, .serWrb), (0x21#8, .serRdb),
   (0x22#8, .txnBegin), (0x23#8, .txnEnd), (0x24#8, .w3Rd), (0x25#8, .w3Wr),
   (0x26#8, .w3Brd), (0x27#8, .w3Bwr), (0x30#8, .i2cRd), (0x31#8, .i2cWr),
   (0x32#8, .i2cBrd), (0x33#8, .i2cBwr), (0x34#8, .i2cProbe), (0x40#8, .timeDec3W),
   (0x41#8, .timeDecA), (0x42#8, .timeDecB), (0x43#8, .timeDecC), (0x44#8, .timeDecD),
   (0x46#8, .timeGet), (0x47#8, .timeSet), (0x48#8, .timeEnc3W), (0x49#8, .timeEncA),
   (0x4A#8, .timeEncB), (0x4B#8, .timeEncC), (0x4C#8, .timeEncD), (0x50#8, .alm4Dec),
   (0x51#8, .alm4Enc), (0x52#8, .alm3Dec), (0x53#8, .alm3Enc), (0x54#8, .almdDec),
   (0x55#8, .almdEnc), (0x56#8, .tcsDec), (0x60#8, .flagEval), (0x61#8, .flagSet),
   (0x62#8, .flagGet), (0x63#8, .ramRd), (0x64#8, .ramWr), (0x65#8, .regRd),
   (0x66#8, .regWr), (0x67#8, .runGet), (0x68#8, .runSet), (0x69#8, .ageDec),
   (0x6A#8, .tempDec)]

/-- Look an opcode up in a map. -/
def lookupOpcode (op : Byte) : List (Byte × Instr) → Option Instr
  | [] => none
  | (k, i) :: rest => if k = op then some i else lookupOpcode op rest

/-- The operation an opcode selects; every 8-bit opcode not in the map is reserved (R75). -/
def decode (op : Byte) : Except DecodeError Instr :=
  match lookupOpcode op opcodeMap with
  | some i => .ok i
  | none => .error (.reservedOpcode op)

/-- The function number of an operation within its family, bits 3:0 of the opcode (R51, R52). -/
def functionNumber : Instr → BitVec 4
  | .bcdDec => 0x0#4
  | .bcdEnc => 0x1#4
  | .serWrb => 0x0#4
  | .serRdb => 0x1#4
  | .txnBegin => 0x2#4
  | .txnEnd => 0x3#4
  | .w3Rd => 0x4#4
  | .w3Wr => 0x5#4
  | .w3Brd => 0x6#4
  | .w3Bwr => 0x7#4
  | .i2cRd => 0x0#4
  | .i2cWr => 0x1#4
  | .i2cBrd => 0x2#4
  | .i2cBwr => 0x3#4
  | .i2cProbe => 0x4#4
  | .timeDec3W => 0x0#4
  | .timeDecA => 0x1#4
  | .timeDecB => 0x2#4
  | .timeDecC => 0x3#4
  | .timeDecD => 0x4#4
  | .timeGet => 0x6#4
  | .timeSet => 0x7#4
  | .timeEnc3W => 0x8#4
  | .timeEncA => 0x9#4
  | .timeEncB => 0xA#4
  | .timeEncC => 0xB#4
  | .timeEncD => 0xC#4
  | .alm4Dec => 0x0#4
  | .alm4Enc => 0x1#4
  | .alm3Dec => 0x2#4
  | .alm3Enc => 0x3#4
  | .almdDec => 0x4#4
  | .almdEnc => 0x5#4
  | .tcsDec => 0x6#4
  | .flagEval => 0x0#4
  | .flagSet => 0x1#4
  | .flagGet => 0x2#4
  | .ramRd => 0x3#4
  | .ramWr => 0x4#4
  | .regRd => 0x5#4
  | .regWr => 0x6#4
  | .runGet => 0x7#4
  | .runSet => 0x8#4
  | .ageDec => 0x9#4
  | .tempDec => 0xA#4

/-- The opcode of an operation: family in bits 7:4, function in bits 3:0 (R51). -/
def encode (i : Instr) : Byte := i.family.number ++ functionNumber i

/-- The operation read from an instruction of `nbits` bits whose bits are `w`: the format has one length, 8 bits (R51). -/
def decodeTableWord (nbits w : Nat) : Option Instr :=
  if nbits = 8 then
    match decode (BitVec.ofNat 8 w) with
    | .ok i => some i
    | .error _ => none
  else none

end Sys2Proof
end

