-- ==== Sys2Proof/Machine/State.lean ====
section
/-! DEFINITION. The state of the block (R11 to R19, R50), its environment's side (R16, R17, R25, R31) and its value after
reset (R27, R225), as plain data. -/

namespace Sys2Proof.Machine

open Sys2Proof

/-! ### Data records of the host interface -/

/-- CivilTime (R20): every field on an 8-bit port, `year` on a 9-bit port. The block checks no range (R149). -/
structure CivilTime where
  second : Byte
  minute : Byte
  hour : Byte
  mday : Byte
  month : Byte
  year : Year
  wday : Byte
deriving DecidableEq, Repr

/-- The record with every field 0. -/
def CivilTime.zero : CivilTime := ⟨0, 0, 0, 0, 0, 0, 0⟩

/-- AlarmDD (R167): each field is `Unset` (`none`) or an 8-bit value; `wdays` is a set of public weekdays
(log 21). -/
structure AlarmDD where
  minute : Option Byte
  hour : Option Byte
  mday : Option Byte
  wdays : Option Byte
deriving DecidableEq, Repr

/-- Every field `Unset`: DOC0's "off" (R167). -/
def AlarmDD.off : AlarmDD := ⟨none, none, none, none⟩

/-- The eight bytes of the `buf` and `rbuf` ports (R50). -/
structure Buf where
  b0 : Byte
  b1 : Byte
  b2 : Byte
  b3 : Byte
  b4 : Byte
  b5 : Byte
  b6 : Byte
  b7 : Byte
deriving DecidableEq, Repr

/-- All eight bytes 0. -/
def Buf.zero : Buf := ⟨0, 0, 0, 0, 0, 0, 0, 0⟩

/-- The rates of the four-mask-bit alarm (R156). -/
inductive Rate4 where
  | everySecond
  | matchSeconds
  | matchMinutes
  | matchHours
  | matchDate
  | matchWeekday
  | invalid
deriving DecidableEq, Repr

/-- The rates of the three-mask-bit alarm (R162). -/
inductive Rate3 where
  | everyMinute
  | matchMinutes
  | matchHours
  | matchDate
  | matchWeekday
  | invalid
deriving DecidableEq, Repr

/-- One host request: the contents of the operand ports (R50). -/
structure Request where
  op : Byte
  a : Byte
  b : Byte
  c : Bool
  n : BitVec 4
  buf : Buf
  t : CivilTime
  rate : BitVec 3
  dd : AlarmDD
deriving DecidableEq, Repr

/-- Every operand port 0 (the `dd` port with no `set` bit). -/
def Request.zero : Request := ⟨0, 0, 0, false, 0, Buf.zero, CivilTime.zero, 0, AlarmDD.off⟩

/-- The result ports (R50), without the status bits. `r16` is read as a signed number. -/
structure Results where
  r : Byte
  r16 : Word16
  rbuf : Buf
  rt : CivilTime
  rrate : BitVec 3
  rdd : AlarmDD
  rsel : Bool
deriving DecidableEq, Repr

/-- Every result port 0. -/
def Results.zero : Results := ⟨0, 0, Buf.zero, CivilTime.zero, 0, AlarmDD.off, false⟩

/-- The status bits of R14. -/
structure Status where
  wrNeeded : Bool
  oor : Bool
  rateInvalid : Bool
  present : Bool
  ill : Bool
deriving DecidableEq, Repr

/-- Every status bit 0. -/
def Status.zero : Status := ⟨false, false, false, false, false⟩

/-! ### Lines, working registers, trace -/

/-- The direction of the data line (R13): driven by the block, or not. -/
inductive Dir where
  | out
  | inp
deriving DecidableEq, Repr

/-- The pin output state (R13). -/
structure Pins where
  clk : Bool
  en : Bool
  dout : Bool
  dir : Dir
deriving DecidableEq, Repr

/-- The pins after reset (R27). -/
def Pins.idle : Pins := ⟨false, false, false, .inp⟩

/-- The transient working registers of the serial transport (R11). -/
structure Work where
  sr : Byte
  acc : Byte
  cnt : BitVec 4
deriving DecidableEq, Repr

/-- The working registers after reset; R226 leaves them unspecified: DESIGN CHOICE, log 7. -/
def Work.zero : Work := ⟨0, 0, 0⟩

/-- `PHASE` (R12): idle, or the number of primitive steps the operation in progress has taken (log 1). -/
inductive Phase where
  | idle
  | at (k : Nat)
deriving DecidableEq, Repr

/-- The primitive events of R19. `i2cEnd` carries the status of R17 as a number (log 13). -/
inductive Event where
  | clk (b : Bool)
  | en (b : Bool)
  | dout (b : Bool)
  | dir (d : Dir)
  | sample (b : Bool)
  | delay (n : Nat)
  | i2cBegin (a : DevAddr)
  | i2cWrite (b : Byte)
  | i2cEnd (s : Nat)
  | i2cRequest (a : DevAddr) (n : Nat)
  | i2cRead (b : Byte)
deriving DecidableEq, Repr

/-! ### The environment -/

/-- What answers the block's reads: the oracle of R31, or the reference device of R31 and `95_test_vectors.md`. -/
inductive DeviceMode where
  | oracle
  | reference
deriving DecidableEq, Repr

/-- Register bytes of the reference device, addresses strictly rising, no entry equal to `unlistedByte`. -/
abbrev Memory := List Host.Cell

/-- The environment's side: the oracle's answers still to come (then free values, log 3) and the reference device
(log 4). -/
structure Env where
  mode : DeviceMode
  /-- levels the data line will have, one for each SAMPLE -/
  levels : List Bool
  /-- statuses `i2c.end` will return, one for each END in oracle mode -/
  statuses : List Nat
  /-- bytes `i2c.read` will return, one for each READ in oracle mode -/
  bytes : List Byte
  /-- how many answers the oracle has given: the index of the free answers -/
  asked : Nat
  /-- the reference device's registers -/
  mem : Memory
  /-- the reference device's register address pointer (R25) -/
  ptr : Byte
  /-- the next WRITE sets the pointer -/
  fresh : Bool
deriving DecidableEq, Repr

/-- The oracle with nothing queued, and an empty reference device behind it. -/
def Env.quiet : Env := ⟨.oracle, [], [], [], 0, [], 0, false⟩

/-- A coming move of the host or of the reset input (log 11). -/
inductive HostMove where
  /-- put a request on the operand ports and raise `start` (R50) -/
  | issue (r : Request)
  /-- a reset event while the block is idle (R225) -/
  | reset
  /-- the same request as `issue`, with a reset event after `k` primitive steps of it (R225) -/
  | issueThenReset (r : Request) (k : Nat)
deriving DecidableEq, Repr

/-! ### The state -/

/-- The whole state. -/
structure State where
  /-- configuration registers (R15): no step writes them -/
  cfg : Params
  /-- pin outputs (R13) -/
  pins : Pins
  /-- working registers (R11) -/
  work : Work
  /-- sequencer position (R12) -/
  phase : Phase
  /-- an operation is in progress (R50) -/
  busy : Bool
  /-- the last operation's results are presented (R50) -/
  done : Bool
  /-- the host requests an operation (R50) -/
  start : Bool
  /-- operand ports (R50) -/
  ports : Request
  /-- result ports (R50) -/
  res : Results
  /-- status outputs (R14) -/
  status : Status
  /-- observable trace (R19), oldest event first -/
  trace : List Event
  /-- the device's side (R25, R31) -/
  env : Env
  /-- index of the next free weekday (R141; log 9) -/
  draws : Nat
  /-- the host's coming moves (log 11) -/
  host : List HostMove
  /-- a reset event to come, after this many primitive steps (R225; log 10) -/
  resetIn : Option Nat
deriving DecidableEq, Repr

/-- Why a step could stop with a fault: there is no reason. "there is no abort, no fault state, no stuck state" (R205), so
the type has no constructor. -/
inductive Fault
deriving DecidableEq, Repr

/-- Why a step could be refused. -/
inductive Refusal where
  /-- raised by `exec` alone, for an operation whose meaning is not written; safe. No arm of `exec` uses it. -/
  | notModelled (mnemonic : String)
deriving DecidableEq, Repr

/-- The block right after a power-on reset with configuration `c` and environment `e` (R27, R225): the configuration
holds the instance's parameter values and the trace holds the three reset events (C11). -/
def State.afterReset (c : Params) (e : Env) : State :=
  { cfg := c, pins := Pins.idle, work := Work.zero, phase := .idle, busy := false, done := false, start := false,
    ports := Request.zero, res := Results.zero, status := Status.zero,
    trace := [.en false, .clk false, .dir .inp], env := e, draws := 0, host := [], resetIn := none }

/-- The machine right after reset: the instance of log 2, with the oracle as its device. -/
def State.reset : State := State.afterReset Params.standard Env.quiet

end Sys2Proof.Machine
end

