-- ==== Sys2Proof/Machine/Memory.lean ====
section
/-! DEFINITION. The register bytes of the reference device (R31): the only memory in State. -/

namespace Sys2Proof.Machine

open Sys2Proof

/-- What an unlisted address reads as: DESIGN CHOICE 0x00, log 4. -/
def unlistedByte : Byte := 0x00#8

/-- The byte at an address. -/
def Memory.read : Memory → Nat → Byte
  | [], _ => unlistedByte
  | (k, w) :: m, a => if k = a then w else Memory.read m a

/-- Store a byte at an address, keeping the canonical form. -/
def Memory.write : Memory → Nat → Byte → Memory
  | [], a, v => if v = unlistedByte then [] else [(a, v)]
  | (k, w) :: m, a, v =>
    if a < k then
      if v = unlistedByte then (k, w) :: m else (a, v) :: (k, w) :: m
    else if a = k then
      if v = unlistedByte then m else (a, v) :: m
    else (k, w) :: Memory.write m a v

/-- The canonical form: addresses 8 bits wide (R30) and strictly rising, no entry equal to what an unlisted address
reads as. -/
def Memory.wf : Memory → Bool
  | [] => true
  | (k, w) :: m => decide (k < 256) && w != unlistedByte && m.all (fun c => decide (k < c.1)) && Memory.wf m

end Sys2Proof.Machine
end

