-- ==== Sys2Proof/Machine/Operands.lean ====
section
/-! DEFINITION. Operand forms: the bytes of a buffer port, rate numbers, and the two addressing modes of R74. -/

namespace Sys2Proof.Machine

open Sys2Proof

/-- The eight bytes of a buffer port in order. -/
def Buf.toList (b : Buf) : List Byte := [b.b0, b.b1, b.b2, b.b3, b.b4, b.b5, b.b6, b.b7]

/-- A buffer port holding the given bytes from index 0; the rest 0 (log 5). -/
def Buf.ofList (l : List Byte) : Buf :=
  ⟨l.getD 0 0, l.getD 1 0, l.getD 2 0, l.getD 3 0, l.getD 4 0, l.getD 5 0, l.getD 6 0, l.getD 7 0⟩

/-- The operand `buf[0..n-1]` of a burst write (R103, R114). -/
def Buf.first (b : Buf) (n : Nat) : List Byte := b.toList.take n

/-- The number of a `Rate4` on the rate ports (R52). -/
def Rate4.code : Rate4 → BitVec 3
  | .everySecond => 0
  | .matchSeconds => 1
  | .matchMinutes => 2
  | .matchHours => 3
  | .matchDate => 4
  | .matchWeekday => 5
  | .invalid => 7

/-- The `Rate4` a number on the `rate` port stands for (R52); the unused code 6 is taken as Invalid (R159;
log 24). -/
def rate4OfCode (c : BitVec 3) : Rate4 :=
  match c.toNat with
  | 0 => .everySecond
  | 1 => .matchSeconds
  | 2 => .matchMinutes
  | 3 => .matchHours
  | 4 => .matchDate
  | 5 => .matchWeekday
  | _ => .invalid

/-- The number of a `Rate3` on the rate ports (R52). -/
def Rate3.code : Rate3 → BitVec 3
  | .everyMinute => 0
  | .matchMinutes => 2
  | .matchHours => 3
  | .matchDate => 4
  | .matchWeekday => 5
  | .invalid => 7

/-- The `Rate3` a number on the `rate` port stands for (R52); the unused codes 1 and 6 are taken as Invalid (R164;
log 24). -/
def rate3OfCode (c : BitVec 3) : Rate3 :=
  match c.toNat with
  | 0 => .everyMinute
  | 2 => .matchMinutes
  | 3 => .matchHours
  | 4 => .matchDate
  | 5 => .matchWeekday
  | _ => .invalid

/-- The read code of a 3-wire register from its write code, `(a + 1) mod 256` (R33, R53). -/
def readCode (a : Byte) : Byte := a + 1

/-- The address of RAM byte `i`, `(RAM_BASE + i * RAM_STRIDE) mod 256` (R72, R189). -/
def ramAddr (p : Params) (i : Byte) : Byte :=
  BitVec.ofNat 8 (p.ramBase.toNat + i.toNat * p.ramStride.toNat)

end Sys2Proof.Machine
end

