-- ==== Sys2Proof/Machine/Flags.lean ====
section
/-! DEFINITION. What decides the status bits of R14, and the pure flag function of R180. -/

namespace Sys2Proof.Machine

open Sys2Proof

/-- The target bits of a flag update: the mask if the flag is wanted on, else 0 (R180). -/
def flagTarget (mask : Byte) (want : Bool) : Byte := if want then mask else 0x00#8

/-- `wr_needed`: the masked bits differ from the target (R180). -/
def flagDiffers (cur mask : Byte) (want : Bool) : Bool := cur &&& mask != flagTarget mask want

/-- The updated register byte, `(a & ~b) | target` (R180). -/
def flagUpdate (cur mask : Byte) (want : Bool) : Byte := (cur &&& ~~~mask) ||| flagTarget mask want

/-- Any masked bit is set (R116, R182). -/
def anyBitSet (v mask : Byte) : Bool := v &&& mask != 0x00#8

/-- `oor`: the RAM index is at or beyond `RAM_SIZE` (R187, R188). -/
def ramOutOfRange (p : Params) (i : Byte) : Bool := decide (p.ramSize ≤ i.toNat)

/-- `present`: every byte was acknowledged (R17, R115). -/
def acknowledged (status : Nat) : Bool := status == 0

/-- A boolean on an 8-bit result port. -/
def bitByte (b : Bool) : Byte := if b then 0x01#8 else 0x00#8

/-- The boolean `RUN.SET` asks `FLAG.SET` for, `c XOR RUN_STOP_VALUE` (R194). With a stop value other than 0 and 1 the XOR is
no boolean and the spec states no result: a free value (log 14). -/
def runWanted (p : Params) (c : Bool) : Bool :=
  if p.runStopValue.toNat ≤ 1 then c ^^ p.runStopValue.getLsbD 0 else Config.freeRunWanted c p.runStopValue

/-- A burst length the block accepts: 1..8 (R75). -/
def burstLengthOk (n : Nat) : Bool := decide (1 ≤ n) && decide (n ≤ 8)

end Sys2Proof.Machine
end

