-- ==== Sys2Proof/Machine/Codec.lean ====
section
/-! DEFINITION. The pure codecs: BCD (R80, R81), fields and weekdays (R127 to R144), the five time codecs (R130 to R139),
the alarm rate codecs (R155 to R169), the trickle-charger decode (R175) and the chip B data formats (R198, R199). -/

namespace Sys2Proof.Machine

open Sys2Proof

/-! ### BCD -/

/-- `a - 6 * (a >> 4)` on natural numbers (R80), applied to every byte without validation. -/
def bcdDecode (a : Byte) : Byte := BitVec.ofNat 8 (a.toNat - 6 * (a.toNat >>> 4))

/-- `(a + 6 * (a / 10)) mod 256` (R81). -/
def bcdEncode (a : Byte) : Byte := BitVec.ofNat 8 (a.toNat + 6 * (a.toNat / 10))

/-- `decf` of R128: mask, then decode. -/
def decField (b mask : Byte) : Byte := bcdDecode (b &&& mask)

/-- `encf` of R129: reduce modulo 256, then encode. -/
def encField (v : Nat) : Byte := bcdEncode (BitVec.ofNat 8 v)

/-! ### Weekdays, months, years -/

/-- Weekday in the numeric form with 7 = Sunday, decode (R140). -/
def wday7Decode (mask b : Byte) : Byte := if b &&& mask = 7 then 0 else b &&& mask

/-- Weekday in the numeric form with 7 = Sunday, encode (R140). -/
def wday7Encode (wday : Byte) : Byte := if wday = 0 then 0x07#8 else encField wday.toNat

/-- The index of the lowest set bit at or above position `k`, looking at `fuel` bits. -/
def lowestSetFrom (m : Byte) : Nat → Nat → Option Nat
  | 0, _ => none
  | fuel + 1, k => if m.getLsbD k then some k else lowestSetFrom m fuel (k + 1)

/-- The index of the lowest set bit of a byte, if it has one (R141). -/
def lowestSet (m : Byte) : Option Nat := lowestSetFrom m 8 0

/-- Weekday in the one-hot form, decode; with no bit set the result is the free value (R141). -/
def wdayHotDecode (mask free b : Byte) : Byte :=
  match lowestSet (b &&& mask) with
  | some k => BitVec.ofNat 8 k
  | none => free

/-- Weekday in the one-hot form, encode: `(1 << wday) mod 256` (R141). -/
def wdayHotEncode (wday : Byte) : Byte := 1#8 <<< wday.toNat

/-- Month, decode: one less than the wire value, modulo 256 (R143). -/
def monthDecode (b mask : Byte) : Byte := decField b mask - 1

/-- Month, encode: one more than the public value (R143). -/
def monthEncode (month : Byte) : Byte := encField (month.toNat + 1)

/-- Year of a chip with no century flag, decode (R144). -/
def yearDecodeBiased (m : FieldMasks) (bias : YearBias) (b : Byte) : Year :=
  BitVec.ofNat 9 ((decField b m.year).toNat + bias.toNat)

/-- Year of a century chip, decode: bit 7 of the month byte adds 100 (R144). -/
def yearDecodeCentury (m : FieldMasks) (b monthByte : Byte) : Year :=
  BitVec.ofNat 9 ((decField b m.year).toNat + if monthByte.getLsbD 7 then 100 else 0)

/-- Year byte, encode: `encf(year mod 100)` (R144). -/
def yearEncode (y : Year) : Byte := encField (y.toNat % 100)

/-- The century flag of the month byte: set when the year is 100 or more (R144). -/
def centuryFlag (y : Year) : Byte := if 100 ≤ y.toNat then 0x80#8 else 0x00#8

/-! ### The five time codecs -/

/-- `TIME.DEC.3W` (R130, layout R60). -/
def timeDecode3W (p : Params) (buf : Buf) : CivilTime :=
  { second := decField buf.b0 p.masks.second, minute := decField buf.b1 p.masks.minute,
    hour := decField buf.b2 p.masks.hour, mday := decField buf.b3 p.masks.date,
    month := monthDecode buf.b4 p.masks.month, wday := wday7Decode p.masks.wdayNum buf.b5,
    year := yearDecodeBiased p.masks p.yearBias buf.b6 }

/-- `TIME.DEC.A` (R132, layout R61). -/
def timeDecodeA (p : Params) (buf : Buf) : CivilTime :=
  { second := decField buf.b0 p.masks.second, minute := decField buf.b1 p.masks.minute,
    hour := decField buf.b2 p.masks.hour, wday := wday7Decode p.masks.wdayNum buf.b3,
    mday := decField buf.b4 p.masks.date, month := monthDecode buf.b5 p.masks.month,
    year := yearDecodeBiased p.masks p.yearBias buf.b6 }

/-- `TIME.DEC.B` (R134, layout R62). -/
def timeDecodeB (p : Params) (buf : Buf) : CivilTime :=
  { second := decField buf.b0 p.masks.second, minute := decField buf.b1 p.masks.minute,
    hour := decField buf.b2 p.masks.hour, wday := wday7Decode p.masks.wdayNum buf.b3,
    mday := decField buf.b4 p.masks.date, month := monthDecode buf.b5 p.masks.month,
    year := yearDecodeCentury p.masks buf.b6 buf.b5 }

/-- `TIME.DEC.C` (R136, layout R63); `free` is the draw of R141. -/
def timeDecodeC (p : Params) (free : Byte) (buf : Buf) : CivilTime :=
  { second := decField buf.b0 p.masks.second, minute := decField buf.b1 p.masks.minute,
    hour := decField buf.b2 p.masks.hour, wday := wdayHotDecode p.masks.wdayHot free buf.b3,
    mday := decField buf.b4 p.masks.date, month := monthDecode buf.b5 p.masks.month,
    year := yearDecodeBiased p.masks p.yearBias buf.b6 }

/-- `TIME.DEC.D` (R138, layout R64); the weekday keeps its public number (R142). -/
def timeDecodeD (p : Params) (buf : Buf) : CivilTime :=
  { second := decField buf.b0 p.masks.second, minute := decField buf.b1 p.masks.minute,
    hour := decField buf.b2 p.masks.hour, mday := decField buf.b3 p.masks.date,
    wday := buf.b4 &&& p.masks.wdayNum, month := monthDecode buf.b5 p.masks.month,
    year := yearDecodeCentury p.masks buf.b6 buf.b5 }

/-- `TIME.ENC.3W` (R131): eight bytes, the last the write-protect terminator. -/
def timeEncode3W (p : Params) (t : CivilTime) : Buf :=
  ⟨encField t.second.toNat, encField t.minute.toNat, encField t.hour.toNat, encField t.mday.toNat,
   monthEncode t.month, wday7Encode t.wday, yearEncode t.year, p.wpTerminator⟩

/-- `TIME.ENC.A` (R133). -/
def timeEncodeA (t : CivilTime) : Buf :=
  ⟨encField t.second.toNat, encField t.minute.toNat, encField t.hour.toNat, wday7Encode t.wday,
   encField t.mday.toNat, monthEncode t.month, yearEncode t.year, 0⟩

/-- `TIME.ENC.B` (R135). -/
def timeEncodeB (t : CivilTime) : Buf :=
  ⟨encField t.second.toNat, encField t.minute.toNat, encField t.hour.toNat, wday7Encode t.wday,
   encField t.mday.toNat, monthEncode t.month ||| centuryFlag t.year, yearEncode t.year, 0⟩

/-- `TIME.ENC.C` (R137). -/
def timeEncodeC (t : CivilTime) : Buf :=
  ⟨encField t.second.toNat, encField t.minute.toNat, encField t.hour.toNat, wdayHotEncode t.wday,
   encField t.mday.toNat, monthEncode t.month, yearEncode t.year, 0⟩

/-- `TIME.ENC.D` (R139). -/
def timeEncodeD (t : CivilTime) : Buf :=
  ⟨encField t.second.toNat, encField t.minute.toNat, encField t.hour.toNat, encField t.mday.toNat,
   encField t.wday.toNat, monthEncode t.month ||| centuryFlag t.year, yearEncode t.year, 0⟩

/-- `TIME.DEC.<v>` for a chip variant (R145). -/
def timeDecode (v : Chip) (p : Params) (free : Byte) (buf : Buf) : CivilTime :=
  match v with
  | .w3 => timeDecode3W p buf
  | .a => timeDecodeA p buf
  | .b => timeDecodeB p buf
  | .c => timeDecodeC p free buf
  | .d => timeDecodeD p buf

/-- `TIME.ENC.<v>` for a chip variant (R146). -/
def timeEncode (v : Chip) (p : Params) (t : CivilTime) : Buf :=
  match v with
  | .w3 => timeEncode3W p t
  | .a => timeEncodeA t
  | .b => timeEncodeB t
  | .c => timeEncodeC t
  | .d => timeEncodeD t

/-! ### Four-mask-bit alarms -/

/-- The level of a `Rate4`, the number of compared fields; Invalid has level 0 (R156, R159). -/
def rate4Level : Rate4 → Nat
  | .everySecond => 0
  | .matchSeconds => 1
  | .matchMinutes => 2
  | .matchHours => 3
  | .matchDate => 4
  | .matchWeekday => 4
  | .invalid => 0

/-- The level of a `Rate3`; Invalid has level 0 (R162, R164). -/
def rate3Level : Rate3 → Nat
  | .everyMinute => 0
  | .matchMinutes => 1
  | .matchHours => 2
  | .matchDate => 3
  | .matchWeekday => 3
  | .invalid => 0

/-- A field takes part in the match when bit 7 of its byte equals `ALARM_MASK_ACTIVE` (R157, R158). -/
def alarmActive (p : Params) (b : Byte) : Bool := b.getLsbD 7 == p.alarmMaskActive

/-- The selector bit of a day/date alarm byte (R67, R158). -/
def alarmSelector (p : Params) (b : Byte) : Bool := b.getLsbD p.selBit.val

/-- The rate of four activity bits, seconds first (R157, R158). -/
def rate4OfMask (a1 a2 a3 a4 sel : Bool) : Rate4 :=
  match a1, a2, a3, a4 with
  | false, false, false, false => .everySecond
  | true, false, false, false => .matchSeconds
  | true, true, false, false => .matchMinutes
  | true, true, true, false => .matchHours
  | true, true, true, true => if sel then .matchWeekday else .matchDate
  | _, _, _, _ => .invalid

/-- The rate of three activity bits, minutes first (R163). -/
def rate3OfMask (a2 a3 a4 sel : Bool) : Rate3 :=
  match a2, a3, a4 with
  | false, false, false => .everyMinute
  | true, false, false => .matchMinutes
  | true, true, false => .matchHours
  | true, true, true => if sel then .matchWeekday else .matchDate
  | _, _, _ => .invalid

/-- The rate `ALM4.DEC` reads from four alarm bytes (R158). -/
def alm4Rate (p : Params) (sec min hr day : Byte) : Rate4 :=
  rate4OfMask (alarmActive p sec) (alarmActive p min) (alarmActive p hr) (alarmActive p day) (alarmSelector p day)

/-- The rate `ALM3.DEC` reads from three alarm bytes (R163). -/
def alm3Rate (p : Params) (min hr day : Byte) : Rate3 :=
  rate3OfMask (alarmActive p min) (alarmActive p hr) (alarmActive p day) (alarmSelector p day)

/-- The value fields of alarm bytes (R160): the selector picks `wday` or `mday`, fields the alarm does not hold are 0.
The masks are R160's own (log 16). -/
def alarmTime (p : Params) (second : Byte) (min hr day : Byte) : CivilTime :=
  { second := second, minute := decField min 0x7F#8, hour := decField hr 0x3F#8,
    mday := if alarmSelector p day then 0 else decField day 0x3F#8,
    wday := if alarmSelector p day then wday7Decode 0x07#8 day else 0,
    month := 0, year := 0 }

/-- Mask bit `k` of a rate of level `level`, in bit 7 (R159, R164). -/
def maskBit (p : Params) (k level : Nat) : Byte :=
  if (if k ≤ level then p.alarmMaskActive else !p.alarmMaskActive) then 0x80#8 else 0x00#8

/-- The day/date value and selector of an alarm byte (R159, R164). -/
def alarmDayByte (p : Params) (weekday : Bool) (t : CivilTime) : Byte :=
  if weekday then wday7Encode t.wday ||| (1#8 <<< p.selBit.val) else encField t.mday.toNat

/-- The four bytes of `ALM4.ENC` (R159). -/
def alm4Encode (p : Params) (rate : Rate4) (t : CivilTime) : List Byte :=
  [encField t.second.toNat ||| maskBit p 1 (rate4Level rate),
   encField t.minute.toNat ||| maskBit p 2 (rate4Level rate),
   encField t.hour.toNat ||| maskBit p 3 (rate4Level rate),
   alarmDayByte p (rate == .matchWeekday) t ||| maskBit p 4 (rate4Level rate)]

/-- The three bytes of `ALM3.ENC` (R164). -/
def alm3Encode (p : Params) (rate : Rate3) (t : CivilTime) : List Byte :=
  [encField t.minute.toNat ||| maskBit p 1 (rate3Level rate),
   encField t.hour.toNat ||| maskBit p 2 (rate3Level rate),
   alarmDayByte p (rate == .matchWeekday) t ||| maskBit p 3 (rate3Level rate)]

/-! ### Day/date alarms -/

/-- A value field of the day/date family: `Unset` when its disabled bit 7 is 1 (R168). -/
def ddField (b mask : Byte) : Option Byte := if b.getLsbD 7 then none else some (decField b mask)

/-- `ALMD.DEC` (R168): disabled bits first, then the selector. -/
def ddDecode (p : Params) (min hr day : Byte) (sel : Bool) : AlarmDD :=
  { minute := ddField min 0x7F#8, hour := ddField hr 0x3F#8,
    mday := if day.getLsbD 7 then none else if sel == p.ddSelDate then some (decField day 0x3F#8) else none,
    wdays := if day.getLsbD 7 then none else if sel == p.ddSelDate then none else some (day &&& 0x7F#8) }

/-- A byte of the day/date family from a field: 0x80 when `Unset` (R169). -/
def ddByte : Option Byte → Byte
  | none => 0x80#8
  | some v => encField v.toNat

/-- The day byte and the new selector of `ALMD.ENC` (R169): both targets supplied is forced disabled. -/
def ddDay (p : Params) (dd : AlarmDD) (sel : Bool) : Byte × Bool :=
  match dd.mday, dd.wdays with
  | some _, some _ => (0x80#8, sel)
  | some d, none => (encField d.toNat, p.ddSelDate)
  | none, some w => (w &&& 0x7F#8, !p.ddSelDate)
  | none, none => (0x80#8, sel)

/-- The three bytes of `ALMD.ENC` (R169). -/
def ddEncode (p : Params) (dd : AlarmDD) (sel : Bool) : List Byte :=
  [ddByte dd.minute, ddByte dd.hour, (ddDay p dd sel).1]

/-! ### Trickle charger, aging, temperature -/

/-- Look a byte up in a trickle-charger table (R175). -/
def tcsLookup (a : Byte) : List (Byte × Fin 7) → Option (Fin 7)
  | [] => none
  | (k, m) :: rest => if k = a then some m else tcsLookup a rest

/-- The mode number of a trickle-charger byte: Off (0) when it is not in the table (R175). -/
def tcsMode (p : Params) (a : Byte) : Byte :=
  match tcsLookup a p.tcsTable with
  | some m => BitVec.ofNat 8 m.val
  | none => 0

/-- The byte is not in the table (R175). -/
def tcsUnknown (p : Params) (a : Byte) : Bool := (tcsLookup a p.tcsTable).isNone

/-- `AGE.DEC`: sign-extend (R198). -/
def agingDecode (a : Byte) : Word16 := a.signExtend 16

/-- `TEMP.DEC`: the high byte and the top two bits of the low byte, in 1/256 degree Celsius (R199). -/
def temperatureDecode (hi lo : Byte) : Word16 := hi ++ (lo &&& 0xC0#8)

end Sys2Proof.Machine
end

