-- ==== Sys2Proof/Machine/Ops.lean ====
section
/-! DEFINITION. The shared operations: the primitive step (R16 to R19), the serial transport and its framing (R91 to R103),
the I2C sequencers and the probe (R111 to R116), the dispatching access (R33), the accessors' bodies (R181 to R194), the
start and the end of an operation (R50), its refusal (R75) and reset (R225). The block has no exception entry and no
exception return (R213, R214). -/

namespace Sys2Proof.Machine

open Sys2Proof

/-! ### The primitive step -/

/-- The next primitive position (R12). -/
def Phase.next : Phase → Phase
  | .idle => .at 1
  | .at k => .at (k + 1)

/-- The effect of a primitive event on the lines (R13, R16). -/
def Pins.after (p : Pins) : Event → Pins
  | .clk b => { p with clk := b }
  | .en b => { p with en := b }
  | .dout b => { p with dout := b }
  | .dir d => { p with dir := d }
  | .sample _ | .delay _ => p
  | .i2cBegin _ | .i2cWrite _ | .i2cEnd _ | .i2cRequest _ _ | .i2cRead _ => p

/-- The effect of a WRITE on the reference device: the first after BEGIN sets the pointer, each further one stores a byte
and advances it (`95_test_vectors.md`). -/
def Env.afterWrite (e : Env) (b : Byte) : Env :=
  if e.fresh then { e with ptr := b, fresh := false }
  else { e with mem := e.mem.write e.ptr.toNat b, ptr := e.ptr + 1 }

/-- The effect of a primitive event on the environment: an answered input is used up (R31), and the reference device, when
it is attached, does what `95_test_vectors.md` says. -/
def Env.after (e : Env) : Event → Env
  | .sample _ => { e with levels := e.levels.tail, asked := e.asked + 1 }
  | .i2cEnd _ =>
    match e.mode with
    | .oracle => { e with statuses := e.statuses.tail, asked := e.asked + 1 }
    | .reference => e
  | .i2cRead _ =>
    match e.mode with
    | .oracle => { e with bytes := e.bytes.tail, asked := e.asked + 1 }
    | .reference => { e with ptr := e.ptr + 1 }
  | .i2cBegin _ =>
    match e.mode with
    | .oracle => e
    | .reference => { e with fresh := true }
  | .i2cWrite b =>
    match e.mode with
    | .oracle => e
    | .reference => e.afterWrite b
  | .i2cRequest _ _ => e
  | .clk _ | .en _ | .dout _ | .dir _ | .delay _ => e

/-- The level the device presents next on the data line (R31): the next one given, else a free value. -/
def Env.nextLevel (e : Env) : Bool := e.levels.headD (Config.freeLevel e.asked)

/-- The status `i2c.end` returns next (R17); the reference device always acknowledges. -/
def Env.nextStatus (e : Env) : Nat :=
  match e.mode with
  | .oracle => e.statuses.headD (Config.freeStatus e.asked)
  | .reference => 0

/-- The byte `i2c.read` returns next (R17, R31). -/
def Env.nextByte (e : Env) : Byte :=
  match e.mode with
  | .oracle => e.bytes.headD (Config.freeByte e.asked)
  | .reference => e.mem.read e.ptr.toNat

/-- One primitive step (R16, R17): the event happens on the lines and at the device, is appended to the trace (R19), and
the sequencer advances (R12). -/
def State.emit (e : Event) (s : State) : State :=
  { s with pins := s.pins.after e, env := s.env.after e, trace := s.trace ++ [e], phase := s.phase.next }

/-- New contents of the working registers (R11). -/
def State.setWork (w : Work) (s : State) : State := { s with work := w }

/-- A list of primitive steps in order. -/
def State.emits : List Event → State → State
  | [], s => s
  | e :: es, s => State.emits es (s.emit e)

/-! ### Byte shift operations (3-wire) -/

/-- One clock pulse: high, settle delay, low (R92). -/
def State.clockPulse (s : State) : State :=
  ((s.emit (.clk true)).emit (.delay s.cfg.tSettle)).emit (.clk false)

/-- The same update `k` times. -/
def State.times (f : State → State) : Nat → State → State
  | 0, s => s
  | k + 1, s => State.times f k (f s)

/-- One iteration of `SER.WRB` (R91); the counter ends at 8 (log 23). -/
def State.shiftOutBit (s : State) : State :=
  let s := (s.emit (.dout (s.work.sr.getLsbD 0))).clockPulse
  s.setWork { s.work with sr := s.work.sr >>> 1, cnt := s.work.cnt + 1 }

/-- `SER.WRB`: send a byte, bit 0 first (R91). -/
def State.sendByte (v : Byte) (s : State) : State :=
  let s := s.emit (.dir .out)
  State.times State.shiftOutBit 8 (s.setWork { s.work with sr := v, cnt := 0 })

/-- The level `sample(DATA)` returns (R16): `DOUT` while the block drives the line, else the device's level
(log 22). -/
def State.dataLevel (s : State) : Bool :=
  match s.pins.dir with
  | .out => s.pins.dout
  | .inp => s.env.nextLevel

/-- One iteration of `SER.RDB` (R93): the sample precedes the pulse. -/
def State.shiftInBit (s : State) : State :=
  let bit := s.dataLevel
  let s := s.emit (.sample bit)
  let s := s.setWork { s.work with acc := s.work.acc ||| (bitByte bit <<< s.work.cnt.toNat) }
  let s := s.clockPulse
  s.setWork { s.work with cnt := s.work.cnt + 1 }

/-- `SER.RDB` up to its result, which is left in `ACC` (R93, R94). -/
def State.receiveByte (s : State) : State :=
  let s := s.emit (.dir .inp)
  State.times State.shiftInBit 8 (s.setWork { s.work with acc := 0, cnt := 0 })

/-- `SER.RDB` with its result (R93). -/
def State.serialRead (s : State) : Byte × State :=
  let s := s.receiveByte
  (s.work.acc, s)

/-- Several bytes sent in order. -/
def State.sendBytes : List Byte → State → State
  | [], s => s
  | v :: vs, s => State.sendBytes vs (s.sendByte v)

/-- `n` results of a reading step, in order. -/
def State.readMany (f : State → Byte × State) : Nat → State → List Byte × State
  | 0, s => ([], s)
  | n + 1, s =>
    let r := f s
    let rest := State.readMany f n r.2
    (r.1 :: rest.1, rest.2)

/-! ### Transaction framing (3-wire) -/

/-- `TXN.BEGIN` (R96); the enable line stays 1 (log 18). -/
def State.txnBegin (s : State) : State :=
  ((s.emit (.clk false)).emit (.en true)).emit (.delay s.cfg.tSetup)

/-- `TXN.END` (R97). -/
def State.txnEnd (s : State) : State :=
  (s.emit (.en false)).emit (.delay s.cfg.tHold)

/-- `W3.RD` (R100). -/
def State.w3Read (code : Byte) (s : State) : Byte × State :=
  let r := (s.txnBegin.sendByte code).serialRead
  (r.1, r.2.txnEnd)

/-- `W3.WR` (R101). -/
def State.w3Write (code v : Byte) (s : State) : State :=
  ((s.txnBegin.sendByte code).sendByte v).txnEnd

/-- `W3.BRD` (R102). -/
def State.w3BurstRead (cmd : Byte) (n : Nat) (s : State) : List Byte × State :=
  let r := State.readMany State.serialRead n (s.txnBegin.sendByte cmd)
  (r.1, r.2.txnEnd)

/-- `W3.BWR` (R103). -/
def State.w3BurstWrite (cmd : Byte) (vs : List Byte) (s : State) : State :=
  (State.sendBytes vs (s.txnBegin.sendByte cmd)).txnEnd

/-! ### I2C sequencers -/

/-- `i2c.end()` with the status it returns (R17). -/
def State.i2cEnd (s : State) : Nat × State :=
  (s.env.nextStatus, s.emit (.i2cEnd s.env.nextStatus))

/-- `i2c.read()` (R17). -/
def State.i2cReadByte (s : State) : Byte × State :=
  (s.env.nextByte, s.emit (.i2cRead s.env.nextByte))

/-- Data bytes written in the open transmission, in order. -/
def State.i2cWriteBytes : List Byte → State → State
  | [], s => s
  | v :: vs, s => State.i2cWriteBytes vs (s.emit (.i2cWrite v))

/-- The address phase of a read: a write transmission carrying the register address, its status discarded (R110, R111). -/
def State.i2cAddress (a : Byte) (s : State) : State :=
  ((s.emit (.i2cBegin s.cfg.devAddr)).emit (.i2cWrite a)).i2cEnd.2

/-- `I2C.BRD` (R113). -/
def State.i2cBurstRead (a : Byte) (n : Nat) (s : State) : List Byte × State :=
  State.readMany State.i2cReadByte n ((s.i2cAddress a).emit (.i2cRequest s.cfg.devAddr n))

/-- `I2C.BWR` (R114). -/
def State.i2cBurstWrite (a : Byte) (vs : List Byte) (s : State) : State :=
  (State.i2cWriteBytes vs ((s.emit (.i2cBegin s.cfg.devAddr)).emit (.i2cWrite a))).i2cEnd.2

/-- `I2C.RD` (R111). -/
def State.i2cRead (a : Byte) (s : State) : Byte × State :=
  ((s.i2cAddress a).emit (.i2cRequest s.cfg.devAddr 1)).i2cReadByte

/-- `I2C.WR` (R112). -/
def State.i2cWrite (a v : Byte) (s : State) : State :=
  (((s.emit (.i2cBegin s.cfg.devAddr)).emit (.i2cWrite a)).emit (.i2cWrite v)).i2cEnd.2

/-- The registers of an initialisation image written one by one (R116). -/
def State.writeImage : List (Byte × Byte) → State → State
  | [], s => s
  | (a, v) :: rest, s => State.writeImage rest (s.i2cWrite a v)

/-- `VoltageLowCheck` (R116): the result says whether the re-initialisation ran. -/
def State.voltageLowCheck (s : State) : Byte × State :=
  let v := s.i2cRead s.cfg.regVl
  if anyBitSet v.1 s.cfg.vlMask then (1, State.writeImage s.cfg.initImage v.2) else (0, v.2)

/-- The chips whose probe checks the voltage-low flag (R115, R116). -/
def checksVoltage : Chip → Bool
  | .w3 | .a | .b => false
  | .c | .d => true

/-! ### Result ports -/

/-- New values of the status bits (R14). -/
def State.setStatus (st : Status) (s : State) : State := { s with status := st }

/-- Present a byte on `r`. -/
def State.setR (v : Byte) (s : State) : State := { s with res := { s.res with r := v } }

/-- Present a word on `r16`. -/
def State.setR16 (v : Word16) (s : State) : State := { s with res := { s.res with r16 := v } }

/-- Present bytes on `rbuf` from index 0. -/
def State.setRbuf (b : Buf) (s : State) : State := { s with res := { s.res with rbuf := b } }

/-- Present a rate number and a record on `rrate` and `rt`, with `rate_invalid`. -/
def State.setAlarm (code : BitVec 3) (t : CivilTime) (bad : Bool) (s : State) : State :=
  { s with res := { s.res with rrate := code, rt := t }, status := { s.status with rateInvalid := bad } }

/-! ### Dispatching access -/

/-- `MemRead(a, 1)` (R33). -/
def State.memRead (a : Byte) (s : State) : Byte × State :=
  match s.cfg.chip with
  | .w3 => s.w3Read (readCode a)
  | .a | .b | .c | .d => s.i2cRead a

/-- `MemWrite(a, 1, v)` (R33). -/
def State.memWrite (a v : Byte) (s : State) : State :=
  match s.cfg.chip with
  | .w3 => s.w3Write a v
  | .a | .b | .c | .d => s.i2cWrite a v

/-- The burst read of `TIME.GET` (R145). -/
def State.timeBurstRead (s : State) : List Byte × State :=
  match s.cfg.chip with
  | .w3 => s.w3BurstRead s.cfg.burstRd s.cfg.burstRdLen
  | .a | .b | .c | .d => s.i2cBurstRead s.cfg.timeBase 7

/-- The burst write of `TIME.SET` (R146). -/
def State.timeBurstWrite (buf : Buf) (s : State) : State :=
  match s.cfg.chip with
  | .w3 => s.w3BurstWrite s.cfg.burstWr (buf.first 8)
  | .a | .b | .c | .d => s.i2cBurstWrite s.cfg.timeBase (buf.first 7)

/-- Decode a burst into `rt` as chip `v` lays it out (R130 to R138). The weekday of variant C takes the free value of the
counter `draws`, which then moves on (R141; log 9). -/
def State.decodeTime (v : Chip) (buf : Buf) (s : State) : State :=
  { s with
    res := { s.res with rt := timeDecode v s.cfg (Config.freeWday s.draws) buf }
    draws := match v with
      | .c => s.draws + 1
      | .w3 | .a | .b | .d => s.draws }

/-- `FLAG.SET` (R181): one read, the pure flag function, at most one write. -/
def State.flagSet (reg mask : Byte) (want : Bool) (s : State) : State :=
  let cur := s.memRead reg
  let t := if flagDiffers cur.1 mask want then cur.2.memWrite reg (flagUpdate cur.1 mask want) else cur.2
  t.setStatus { t.status with wrNeeded := flagDiffers cur.1 mask want }

/-- `FLAG.GET` (R182). -/
def State.flagGet (reg mask : Byte) (s : State) : Bool × State :=
  let cur := s.memRead reg
  (anyBitSet cur.1 mask, cur.2)

/-! ### Start, end and refusal of an operation -/

/-- The block takes the request: `busy` rises, `done` falls, and the results of the operation before are no longer
presented (R14, R50; log 5, log 6). -/
def State.accept (s : State) : State :=
  { s with start := false, busy := true, done := false, phase := .at 0, res := Results.zero, status := Status.zero }

/-- The last primitive step has finished: IDLE, results presented, `done` raised (R12, R50, R241). -/
def State.finish (s : State) : State := { s with phase := .idle, busy := false, done := true }

/-- A refused operation: no event, `ill` = 1, every other result 0, `done` raised (R75). -/
def State.refuse (s : State) : State :=
  let s := s.accept
  State.finish { s with status := { s.status with ill := true } }

/-- An operation from its acceptance to its end, or its refusal when `ok` fails (R75, R205). -/
def State.operate (ok : Bool) (body : State → State) (s : State) : Host.Outcome State Fault Refusal :=
  .next (if ok then (body s.accept).finish else s.refuse)

/-- The serial family exists on the 3-wire chip only (R75, R90). -/
def hasSerial : Chip → Bool
  | .w3 => true
  | .a | .b | .c | .d => false

/-- The I2C family exists on chips A to D only (R75, R110). -/
def hasI2c : Chip → Bool
  | .w3 => false
  | .a | .b | .c | .d => true

/-- The length check of `TIME.GET`'s burst (R75, R145; log 15). -/
def timeBurstOk (p : Params) : Bool :=
  match p.chip with
  | .w3 => burstLengthOk p.burstRdLen
  | .a | .b | .c | .d => true

/-! ### Reset and the host's moves -/

/-- A reset event (R225): the enable line falls first, the clock falls, the data line is released; then every element of
the block's state has its reset value (R27). The device, the configuration and the operand ports
the host drives are not touched (log 8). -/
def State.resetEvent (s : State) : State :=
  { State.emits [.en false, .clk false, .dir .inp] s with
    pins := Pins.idle, work := Work.zero, phase := .idle, busy := false, done := false, start := false,
    res := Results.zero, status := Status.zero, resetIn := none }

/-- A reset that arrives after `k` primitive steps of the operation that takes `s` to `t` (R225): those steps have
happened, the rest do not, and the block is reset (log 10). -/
def State.abandon (s t : State) (k : Nat) : State :=
  (State.emits ((t.trace.drop s.trace.length).take k) s).resetEvent

/-- A move of the host or of the reset input (log 11). -/
def State.hostMove (m : HostMove) (s : State) : State :=
  match m with
  | .issue r => { s with ports := r, start := true }
  | .reset => { s with resetIn := some 0 }
  | .issueThenReset r k => { s with ports := r, start := true, resetIn := some k }

/-- A step in which no operation starts: a pending reset takes effect; a `start` raised while busy is lost (R237; log 12); else
the host makes its next move; else the block waits (R225, R241). -/
def State.rest (s : State) : State :=
  match s.resetIn with
  | some _ => s.resetEvent
  | none =>
    if s.start then { s with start := false }
    else
      match s.host with
      | [] => s
      | m :: ms => State.hostMove m { s with host := ms }

end Sys2Proof.Machine
end

