-- ==== Sys2Proof/Machine/Accessor.lean ====
section
/-! DEFINITION. The meanings of the accessor family (R180 to R199), on every chip. -/

namespace Sys2Proof.Machine

open Sys2Proof

/-- `FLAG.EVAL` (R180): the pure flag function. -/
def execFlagEval (s : State) : Host.Outcome State Fault Refusal :=
  s.operate true fun u =>
    (u.setR (flagUpdate u.ports.a u.ports.b u.ports.c)).setStatus
      { u.status with wrNeeded := flagDiffers u.ports.a u.ports.b u.ports.c }

/-- `FLAG.SET` (R181). -/
def execFlagSet (s : State) : Host.Outcome State Fault Refusal :=
  s.operate true fun u => u.flagSet u.ports.a u.ports.b u.ports.c

/-- `FLAG.GET` (R182). -/
def execFlagGet (s : State) : Host.Outcome State Fault Refusal :=
  s.operate true fun u =>
    let f := u.flagGet u.ports.a u.ports.b
    f.2.setR (bitByte f.1)

/-- `RAM.RD` (R187): the bounds check comes first and alone decides whether the bus is touched. -/
def execRamRd (s : State) : Host.Outcome State Fault Refusal :=
  s.operate true fun u =>
    if ramOutOfRange u.cfg u.ports.a then
      (u.setR u.cfg.ramSentinel.toByte).setStatus { u.status with oor := true }
    else
      let v := u.memRead (ramAddr u.cfg u.ports.a)
      v.2.setR v.1

/-- `RAM.WR` (R188). -/
def execRamWr (s : State) : Host.Outcome State Fault Refusal :=
  s.operate true fun u =>
    if ramOutOfRange u.cfg u.ports.a then u.setStatus { u.status with oor := true }
    else u.memWrite (ramAddr u.cfg u.ports.a) u.ports.b

/-- `REG.RD` (R185). -/
def execRegRd (s : State) : Host.Outcome State Fault Refusal :=
  s.operate true fun u =>
    let v := u.memRead u.ports.a
    v.2.setR v.1

/-- `REG.WR` (R186). -/
def execRegWr (s : State) : Host.Outcome State Fault Refusal :=
  s.operate true fun u => u.memWrite u.ports.a u.ports.b

/-- `RUN.GET` (R193): running when the flag, 0 or 1, differs from the stop value. -/
def execRunGet (s : State) : Host.Outcome State Fault Refusal :=
  s.operate true fun u =>
    let f := u.flagGet u.cfg.runReg u.cfg.runMask
    f.2.setR (bitByte (bitByte f.1 != u.cfg.runStopValue))

/-- `RUN.SET` (R194). -/
def execRunSet (s : State) : Host.Outcome State Fault Refusal :=
  s.operate true fun u => u.flagSet u.cfg.runReg u.cfg.runMask (runWanted u.cfg u.ports.c)

/-- `AGE.DEC` (R198). -/
def execAgeDec (s : State) : Host.Outcome State Fault Refusal :=
  s.operate true fun u => u.setR16 (agingDecode u.ports.a)

/-- `TEMP.DEC` (R199). -/
def execTempDec (s : State) : Host.Outcome State Fault Refusal :=
  s.operate true fun u => u.setR16 (temperatureDecode u.ports.a u.ports.b)

end Sys2Proof.Machine
end

