-- ==== Sys2Proof/Machine/Alarm.lean ====
section
/-! DEFINITION. The meanings of the alarm family (R158 to R175): pure, no event, on every chip (R171). -/

namespace Sys2Proof.Machine

open Sys2Proof

/-- `ALM4.DEC` (R158). -/
def execAlm4Dec (s : State) : Host.Outcome State Fault Refusal :=
  s.operate true fun u =>
    let q := u.ports.buf
    let rate := alm4Rate u.cfg q.b0 q.b1 q.b2 q.b3
    u.setAlarm rate.code (alarmTime u.cfg (decField q.b0 0x7F#8) q.b1 q.b2 q.b3) (rate == .invalid)

/-- `ALM4.ENC` (R159). -/
def execAlm4Enc (s : State) : Host.Outcome State Fault Refusal :=
  s.operate true fun u => u.setRbuf (Buf.ofList (alm4Encode u.cfg (rate4OfCode u.ports.rate) u.ports.t))

/-- `ALM3.DEC` (R163). -/
def execAlm3Dec (s : State) : Host.Outcome State Fault Refusal :=
  s.operate true fun u =>
    let q := u.ports.buf
    let rate := alm3Rate u.cfg q.b0 q.b1 q.b2
    u.setAlarm rate.code (alarmTime u.cfg 0 q.b0 q.b1 q.b2) (rate == .invalid)

/-- `ALM3.ENC` (R164). -/
def execAlm3Enc (s : State) : Host.Outcome State Fault Refusal :=
  s.operate true fun u => u.setRbuf (Buf.ofList (alm3Encode u.cfg (rate3OfCode u.ports.rate) u.ports.t))

/-- `ALMD.DEC` (R168). -/
def execAlmdDec (s : State) : Host.Outcome State Fault Refusal :=
  s.operate true fun u =>
    { u with res := { u.res with
        rdd := ddDecode u.cfg u.ports.buf.b0 u.ports.buf.b1 u.ports.buf.b2 u.ports.c } }

/-- `ALMD.ENC` (R169). -/
def execAlmdEnc (s : State) : Host.Outcome State Fault Refusal :=
  s.operate true fun u =>
    { u with res := { u.res with
        rbuf := Buf.ofList (ddEncode u.cfg u.ports.dd u.ports.c)
        rsel := (ddDay u.cfg u.ports.dd u.ports.c).2 } }

/-- `TCS.DEC` (R175). -/
def execTcsDec (s : State) : Host.Outcome State Fault Refusal :=
  s.operate true fun u =>
    (u.setR (tcsMode u.cfg u.ports.a)).setStatus { u.status with rateInvalid := tcsUnknown u.cfg u.ports.a }

end Sys2Proof.Machine
end

