-- ==== Sys2Proof/Machine/Bcd.lean ====
section
/-! DEFINITION. The meanings of the BCD family (R80, R81): combinational, no event, every chip. -/

namespace Sys2Proof.Machine

open Sys2Proof

/-- `BCD.DEC` (R80). -/
def execBcdDec (s : State) : Host.Outcome State Fault Refusal :=
  s.operate true fun u => u.setR (bcdDecode u.ports.a)

/-- `BCD.ENC` (R81). -/
def execBcdEnc (s : State) : Host.Outcome State Fault Refusal :=
  s.operate true fun u => u.setR (bcdEncode u.ports.a)

end Sys2Proof.Machine
end

