-- ==== Sys2Proof/Machine/I2c.lean ====
section
/-! DEFINITION. The meanings of the I2C family (R110 to R116): refused when `CHIP = 3W`, bursts refused for a length outside
1..8 (R75). A failed acknowledgment is seen by the probe only (R110). -/

namespace Sys2Proof.Machine

open Sys2Proof

/-- `I2C.RD` (R111). -/
def execI2cRd (s : State) : Host.Outcome State Fault Refusal :=
  s.operate (hasI2c s.cfg.chip) fun u =>
    let r := u.i2cRead u.ports.a
    r.2.setR r.1

/-- `I2C.WR` (R112). -/
def execI2cWr (s : State) : Host.Outcome State Fault Refusal :=
  s.operate (hasI2c s.cfg.chip) fun u => u.i2cWrite u.ports.a u.ports.b

/-- `I2C.BRD` (R113). -/
def execI2cBrd (s : State) : Host.Outcome State Fault Refusal :=
  s.operate (hasI2c s.cfg.chip && burstLengthOk s.ports.n.toNat) fun u =>
    let r := u.i2cBurstRead u.ports.a u.ports.n.toNat
    r.2.setRbuf (Buf.ofList r.1)

/-- `I2C.BWR` (R114). -/
def execI2cBwr (s : State) : Host.Outcome State Fault Refusal :=
  s.operate (hasI2c s.cfg.chip && burstLengthOk s.ports.n.toNat) fun u =>
    u.i2cBurstWrite u.ports.a (u.ports.buf.first u.ports.n.toNat)

/-- `I2C.PROBE` (R115, R116): an empty transmission; on C and D a present device's voltage-low flag is checked. -/
def execI2cProbe (s : State) : Host.Outcome State Fault Refusal :=
  s.operate (hasI2c s.cfg.chip) fun u =>
    let e := (u.emit (.i2cBegin u.cfg.devAddr)).i2cEnd
    let present := acknowledged e.1
    let t := e.2.setStatus { e.2.status with present := present }
    if present && checksVoltage u.cfg.chip then
      let v := t.voltageLowCheck
      v.2.setR v.1
    else t

end Sys2Proof.Machine
end

