-- ==== Sys2Proof/Machine/Serial.lean ====
section
/-! DEFINITION. The meanings of the serial and 3-wire family (R91 to R103): refused unless `CHIP = 3W`, bursts refused for a
length outside 1..8 (R75). -/

namespace Sys2Proof.Machine

open Sys2Proof

/-- `SER.WRB` (R91). -/
def execSerWrb (s : State) : Host.Outcome State Fault Refusal :=
  s.operate (hasSerial s.cfg.chip) fun u => u.sendByte u.ports.a

/-- `SER.RDB` (R93). -/
def execSerRdb (s : State) : Host.Outcome State Fault Refusal :=
  s.operate (hasSerial s.cfg.chip) fun u =>
    let r := u.serialRead
    r.2.setR r.1

/-- `TXN.BEGIN` (R96). -/
def execTxnBegin (s : State) : Host.Outcome State Fault Refusal :=
  s.operate (hasSerial s.cfg.chip) fun u => u.txnBegin

/-- `TXN.END` (R97). -/
def execTxnEnd (s : State) : Host.Outcome State Fault Refusal :=
  s.operate (hasSerial s.cfg.chip) fun u => u.txnEnd

/-- `W3.RD` (R100). -/
def execW3Rd (s : State) : Host.Outcome State Fault Refusal :=
  s.operate (hasSerial s.cfg.chip) fun u =>
    let r := u.w3Read u.ports.a
    r.2.setR r.1

/-- `W3.WR` (R101). -/
def execW3Wr (s : State) : Host.Outcome State Fault Refusal :=
  s.operate (hasSerial s.cfg.chip) fun u => u.w3Write u.ports.a u.ports.b

/-- `W3.BRD` (R102). -/
def execW3Brd (s : State) : Host.Outcome State Fault Refusal :=
  s.operate (hasSerial s.cfg.chip && burstLengthOk s.ports.n.toNat) fun u =>
    let r := u.w3BurstRead u.ports.a u.ports.n.toNat
    r.2.setRbuf (Buf.ofList r.1)

/-- `W3.BWR` (R103). -/
def execW3Bwr (s : State) : Host.Outcome State Fault Refusal :=
  s.operate (hasSerial s.cfg.chip && burstLengthOk s.ports.n.toNat) fun u =>
    u.w3BurstWrite u.ports.a (u.ports.buf.first u.ports.n.toNat)

end Sys2Proof.Machine
end

