-- ==== Sys2Proof/Machine/Time.lean ====
section
/-! DEFINITION. The meanings of the time family: ten pure codecs that do not look at `CHIP` (R51, R130 to R139) and the two
burst transfers that do (R145, R146). -/

namespace Sys2Proof.Machine

open Sys2Proof

/-- `TIME.DEC.3W` (R130). -/
def execTimeDec3W (s : State) : Host.Outcome State Fault Refusal :=
  s.operate true fun u => u.decodeTime .w3 u.ports.buf

/-- `TIME.DEC.A` (R132). -/
def execTimeDecA (s : State) : Host.Outcome State Fault Refusal :=
  s.operate true fun u => u.decodeTime .a u.ports.buf

/-- `TIME.DEC.B` (R134). -/
def execTimeDecB (s : State) : Host.Outcome State Fault Refusal :=
  s.operate true fun u => u.decodeTime .b u.ports.buf

/-- `TIME.DEC.C` (R136). -/
def execTimeDecC (s : State) : Host.Outcome State Fault Refusal :=
  s.operate true fun u => u.decodeTime .c u.ports.buf

/-- `TIME.DEC.D` (R138). -/
def execTimeDecD (s : State) : Host.Outcome State Fault Refusal :=
  s.operate true fun u => u.decodeTime .d u.ports.buf

/-- `TIME.GET` (R145): one burst, then the decode of `CHIP`. -/
def execTimeGet (s : State) : Host.Outcome State Fault Refusal :=
  s.operate (timeBurstOk s.cfg) fun u =>
    let r := u.timeBurstRead
    (r.2.setRbuf (Buf.ofList r.1)).decodeTime u.cfg.chip (Buf.ofList r.1)

/-- `TIME.SET` (R146): the encode of `CHIP`, then one burst. -/
def execTimeSet (s : State) : Host.Outcome State Fault Refusal :=
  s.operate true fun u =>
    (u.setRbuf (timeEncode u.cfg.chip u.cfg u.ports.t)).timeBurstWrite (timeEncode u.cfg.chip u.cfg u.ports.t)

/-- `TIME.ENC.3W` (R131). -/
def execTimeEnc3W (s : State) : Host.Outcome State Fault Refusal :=
  s.operate true fun u => u.setRbuf (timeEncode3W u.cfg u.ports.t)

/-- `TIME.ENC.A` (R133). -/
def execTimeEncA (s : State) : Host.Outcome State Fault Refusal :=
  s.operate true fun u => u.setRbuf (timeEncodeA u.ports.t)

/-- `TIME.ENC.B` (R135). -/
def execTimeEncB (s : State) : Host.Outcome State Fault Refusal :=
  s.operate true fun u => u.setRbuf (timeEncodeB u.ports.t)

/-- `TIME.ENC.C` (R137). -/
def execTimeEncC (s : State) : Host.Outcome State Fault Refusal :=
  s.operate true fun u => u.setRbuf (timeEncodeC u.ports.t)

/-- `TIME.ENC.D` (R139). -/
def execTimeEncD (s : State) : Host.Outcome State Fault Refusal :=
  s.operate true fun u => u.setRbuf (timeEncodeD u.ports.t)

end Sys2Proof.Machine
end

