-- ==== Sys2Proof/Machine/Dispatch.lean ====
section
/-! DEFINITION. One arm for each operation of R52: a direct call of its meaning. -/

namespace Sys2Proof.Machine

open Sys2Proof

def exec (i : Instr) (s : State) : Host.Outcome State Fault Refusal :=
  match i with
  | .bcdDec => Sys2Proof.Machine.execBcdDec s
  | .bcdEnc => Sys2Proof.Machine.execBcdEnc s
  | .serWrb => Sys2Proof.Machine.execSerWrb s
  | .serRdb => Sys2Proof.Machine.execSerRdb s
  | .txnBegin => Sys2Proof.Machine.execTxnBegin s
  | .txnEnd => Sys2Proof.Machine.execTxnEnd s
  | .w3Rd => Sys2Proof.Machine.execW3Rd s
  | .w3Wr => Sys2Proof.Machine.execW3Wr s
  | .w3Brd => Sys2Proof.Machine.execW3Brd s
  | .w3Bwr => Sys2Proof.Machine.execW3Bwr s
  | .i2cRd => Sys2Proof.Machine.execI2cRd s
  | .i2cWr => Sys2Proof.Machine.execI2cWr s
  | .i2cBrd => Sys2Proof.Machine.execI2cBrd s
  | .i2cBwr => Sys2Proof.Machine.execI2cBwr s
  | .i2cProbe => Sys2Proof.Machine.execI2cProbe s
  | .timeDec3W => Sys2Proof.Machine.execTimeDec3W s
  | .timeDecA => Sys2Proof.Machine.execTimeDecA s
  | .timeDecB => Sys2Proof.Machine.execTimeDecB s
  | .timeDecC => Sys2Proof.Machine.execTimeDecC s
  | .timeDecD => Sys2Proof.Machine.execTimeDecD s
  | .timeGet => Sys2Proof.Machine.execTimeGet s
  | .timeSet => Sys2Proof.Machine.execTimeSet s
  | .timeEnc3W => Sys2Proof.Machine.execTimeEnc3W s
  | .timeEncA => Sys2Proof.Machine.execTimeEncA s
  | .timeEncB => Sys2Proof.Machine.execTimeEncB s
  | .timeEncC => Sys2Proof.Machine.execTimeEncC s
  | .timeEncD => Sys2Proof.Machine.execTimeEncD s
  | .alm4Dec => Sys2Proof.Machine.execAlm4Dec s
  | .alm4Enc => Sys2Proof.Machine.execAlm4Enc s
  | .alm3Dec => Sys2Proof.Machine.execAlm3Dec s
  | .alm3Enc => Sys2Proof.Machine.execAlm3Enc s
  | .almdDec => Sys2Proof.Machine.execAlmdDec s
  | .almdEnc => Sys2Proof.Machine.execAlmdEnc s
  | .tcsDec => Sys2Proof.Machine.execTcsDec s
  | .flagEval => Sys2Proof.Machine.execFlagEval s
  | .flagSet => Sys2Proof.Machine.execFlagSet s
  | .flagGet => Sys2Proof.Machine.execFlagGet s
  | .ramRd => Sys2Proof.Machine.execRamRd s
  | .ramWr => Sys2Proof.Machine.execRamWr s
  | .regRd => Sys2Proof.Machine.execRegRd s
  | .regWr => Sys2Proof.Machine.execRegWr s
  | .runGet => Sys2Proof.Machine.execRunGet s
  | .runSet => Sys2Proof.Machine.execRunSet s
  | .ageDec => Sys2Proof.Machine.execAgeDec s
  | .tempDec => Sys2Proof.Machine.execTempDec s

end Sys2Proof.Machine
end

