-- ==== Sys2Proof/Machine/Fetch.lean ====
section
/-! DEFINITION. From the `op` port to the operation it selects (R50, R51, R75), and the operation cut off by a reset
(R225). -/

namespace Sys2Proof.Machine

open Sys2Proof

/-- The operation the `op` port selects, run; a reserved opcode is refused with `ill` = 1 (R75). -/
def runRequest (s : State) : Host.Outcome State Fault Refusal :=
  match decode s.ports.op with
  | .ok i => exec i s
  | .error _ => .next s.refuse

/-- An operation of `s` that a reset reaches after `k` primitive steps (R225). -/
def cutOff (s : State) (k : Nat) : Host.Outcome State Fault Refusal → Host.Outcome State Fault Refusal
  | .next t => .next (s.abandon t k)
  | .fault r => .fault r
  | .refused r => .refused r

/-- What happens when the host's `start` meets an idle block. -/
def serve (s : State) : Host.Outcome State Fault Refusal :=
  match s.resetIn with
  | none => runRequest s
  | some k => cutOff s k (runRequest s)

/-- An idle block with opcode `w` on the `op` port, `start` raised and no reset pending; the other operand ports are not
touched. -/
def presentOpcode (w : Nat) (s : State) : State :=
  { s with
    ports := { s.ports with op := BitVec.ofNat 8 w }, start := true, busy := false, phase := .idle, resetIn := none }

end Sys2Proof.Machine
end

