-- ==== Sys2Proof/Machine/Step.lean ====
section
/-! DEFINITION. One step of the machine: a whole operation, or one move of the environment (log 1, log 11). -/

namespace Sys2Proof.Machine

open Sys2Proof

/-- One step: an idle block with `start` raised runs the requested operation to its end, or to the reset that cuts it
off (`serve`); otherwise no operation starts (`State.rest`). -/
def step (s : State) : Host.Outcome State Fault Refusal :=
  if s.start && !s.busy then serve s else .next s.rest

/-- `s` with opcode `w` presented to an idle block, so that the next step runs it. -/
def State.withFetchWord (s : State) (_nbits w : Nat) : State := presentOpcode w s

end Sys2Proof.Machine
end

