-- ==== Sys2Proof/Machine/Requests.lean ====
section
/-! DEFINITION. The pseudo-operations of R79 and the transfers of R172: requests of the host built from operations of R52
and the address registers of the configuration. No operation of the block reads those registers itself. -/

namespace Sys2Proof.Machine

open Sys2Proof

/-- A request for an operation with every operand port 0. -/
def requestOf (i : Instr) : Request := { Request.zero with op := encode i }

/-- `REG.WR reg, v` (R186). -/
def regWriteRequest (reg v : Byte) : Request := { requestOf .regWr with a := reg, b := v }

/-- `REG.RD reg` (R185). -/
def regReadRequest (reg : Byte) : Request := { requestOf .regRd with a := reg }

/-- `FLAG.SET reg, mask, want` (R181). -/
def flagSetRequest (reg mask : Byte) (want : Bool) : Request :=
  { requestOf .flagSet with a := reg, b := mask, c := want }

/-- `FLAG.GET reg, mask` (R182). -/
def flagGetRequest (reg mask : Byte) : Request := { requestOf .flagGet with a := reg, b := mask }

/-- `I2C.BRD reg, n` (R113). -/
def burstReadRequest (reg : Byte) (n : BitVec 4) : Request := { requestOf .i2cBrd with a := reg, n := n }

/-- `I2C.BWR reg, n, buf` (R114). -/
def burstWriteRequest (reg : Byte) (n : BitVec 4) (buf : Buf) : Request :=
  { requestOf .i2cBwr with a := reg, n := n, buf := buf }

/-- `WP.CLEAR` = `REG.WR REG_WP, 0x00` (R79). -/
def wpClear (p : Params) : Request := regWriteRequest p.regWp 0x00#8

/-- `FLAG.CLEAR reg, mask` = `FLAG.SET reg, mask, 0` (R79). -/
def flagClear (reg mask : Byte) : Request := flagSetRequest reg mask false

/-- `ALARM1.ACK` = `FLAG.SET REG_STATUS, 0x01, 0` (R79). -/
def alarm1Ack (p : Params) : Request := flagClear p.regStatus 0x01#8

/-- `ALARM2.ACK` = `FLAG.SET REG_STATUS, 0x02, 0` (R79). -/
def alarm2Ack (p : Params) : Request := flagClear p.regStatus 0x02#8

/-- `SQW.ENABLE c` = `FLAG.SET REG_CONTROL, 0x10, c` (R79). -/
def sqwEnable (p : Params) (on : Bool) : Request := flagSetRequest p.regControl 0x10#8 on

/-- Alarm 1 read: the burst, then `ALM4.DEC` of what it returned (R172). -/
def alarm1Read (p : Params) : Request := burstReadRequest p.regAlarm1 4

/-- The second half of an alarm 1 read (R172). -/
def alarm1Decode (got : Results) : Request := { requestOf .alm4Dec with buf := got.rbuf }

/-- Alarm 1 write, after `ALM4.ENC` (R172). -/
def alarm1Write (p : Params) (got : Results) : Request := burstWriteRequest p.regAlarm1 4 got.rbuf

/-- Alarm 2 read (R172). -/
def alarm2Read (p : Params) : Request := burstReadRequest p.regAlarm2 3

/-- The second half of an alarm 2 read (R172). -/
def alarm2Decode (got : Results) : Request := { requestOf .alm3Dec with buf := got.rbuf }

/-- Alarm 2 write, after `ALM3.ENC` (R172). -/
def alarm2Write (p : Params) (got : Results) : Request := burstWriteRequest p.regAlarm2 3 got.rbuf

/-- Day/date alarm read, the registers (R172). -/
def ddRead (p : Params) : Request := burstReadRequest p.regDdAlarm 3

/-- Day/date alarm read, the selector (R172). -/
def ddSelectorRead (p : Params) : Request := flagGetRequest p.regDdSel p.ddSelMask

/-- Day/date alarm read, the decode (R172). -/
def ddDecodeRequest (got : Results) (sel : Bool) : Request :=
  { requestOf .almdDec with buf := got.rbuf, c := sel }

/-- Day/date alarm write, the registers, after `ALMD.ENC` (R172). -/
def ddWrite (p : Params) (got : Results) : Request := burstWriteRequest p.regDdAlarm 3 got.rbuf

/-- Day/date alarm write, the selector (R172). -/
def ddSelectorWrite (p : Params) (got : Results) : Request := flagSetRequest p.regDdSel p.ddSelMask got.rsel

/-- The trickle-charger register written raw and read back (R24, R175). -/
def trickleWrite (p : Params) (v : Byte) : Request := regWriteRequest p.regTcs v

/-- The trickle-charger register read (R175). -/
def trickleRead (p : Params) : Request := regReadRequest p.regTcs

/-- The aging offset written (R198). -/
def agingWrite (p : Params) (v : Byte) : Request := regWriteRequest p.regAging v

/-- The aging offset read (R198). -/
def agingRead (p : Params) : Request := regReadRequest p.regAging

/-- The two temperature registers, high byte first (R36, R199). -/
def temperatureReads (p : Params) : List Request := [regReadRequest p.regTempHi, regReadRequest p.regTempLo]

end Sys2Proof.Machine
end

