-- ==== Sys2Proof/Safety.lean ====
section
/-! DEFINITION. The terms claims use: the event lists the spec gives for each transfer (R53 to R58, R91 to R116), how an
operation ends and what it leaves alone, legal use of the lines, and the invariant of the machine between steps. The
meanings do not use these definitions. -/

namespace Sys2Proof.Machine

open Sys2Proof

/-! ### The wire formats as event lists -/

/-- A clock pulse (R92). -/
def pulseEvents (settle : Nat) : List Event := [.clk true, .delay settle, .clk false]

/-- A byte sent, bit 0 first (R91): 33 events. -/
def sendEvents (settle : Nat) (v : Byte) : List Event :=
  .dir .out :: (List.range 8).flatMap fun k => .dout (v.getLsbD k) :: pulseEvents settle

/-- A byte received as eight samples, in time order (R93): 33 events. -/
def receiveEvents (settle : Nat) (bits : List Bool) : List Event :=
  .dir .inp :: bits.flatMap fun b => .sample b :: pulseEvents settle

/-- Framing entry (R96). -/
def frameOpen (p : Params) : List Event := [.clk false, .en true, .delay p.tSetup]

/-- Framing exit (R97). -/
def frameClose (p : Params) : List Event := [.en false, .delay p.tHold]

/-- A 3-wire transaction that sends a command and then data bytes (R54, R55, R101, R103). -/
def w3WriteEvents (p : Params) (cmd : Byte) (data : List Byte) : List Event :=
  frameOpen p ++ sendEvents p.tSettle cmd ++ data.flatMap (sendEvents p.tSettle) ++ frameClose p

/-- A 3-wire transaction that sends a command and then receives bytes (R54, R55, R100, R102). -/
def w3ReadEvents (p : Params) (cmd : Byte) (answers : List (List Bool)) : List Event :=
  frameOpen p ++ sendEvents p.tSettle cmd ++ answers.flatMap (receiveEvents p.tSettle) ++ frameClose p

/-- An I2C write transmission of an address and data bytes (R56, R58, R112, R114). -/
def i2cWriteEvents (p : Params) (a : Byte) (data : List Byte) (status : Nat) : List Event :=
  [.i2cBegin p.devAddr, .i2cWrite a] ++ data.map .i2cWrite ++ [.i2cEnd status]

/-- An I2C read: the address written, then a request of as many bytes as are read (R57, R58, R111, R113). -/
def i2cReadEvents (p : Params) (a : Byte) (status : Nat) (data : List Byte) : List Event :=
  [.i2cBegin p.devAddr, .i2cWrite a, .i2cEnd status, .i2cRequest p.devAddr data.length] ++ data.map .i2cRead

/-- Eight samples in time order read as a byte: the first sample is bit 0 (R35, R93). -/
def SampledAs (bits : List Bool) (v : Byte) : Prop :=
  bits.length = 8 ∧ ∀ k, k < 8 → v.getLsbD k = bits.getD k false

/-- Each list of eight samples reads as the byte at its place. -/
def SampledAll (answers : List (List Bool)) (bytes : List Byte) : Prop := List.Forall₂ SampledAs answers bytes

/-- The events of one register read at write code or address `a` that returned `v`, on the transport of the chip (R33). -/
def IsRegisterRead (p : Params) (a v : Byte) (evs : List Event) : Prop :=
  if p.chip = .w3 then ∃ bits, SampledAs bits v ∧ evs = w3ReadEvents p (a + 1) [bits]
  else ∃ status, evs = i2cReadEvents p a status [v]

/-- The events of one register write at write code or address `a`, on the transport of the chip (R33). -/
def IsRegisterWrite (p : Params) (a v : Byte) (evs : List Event) : Prop :=
  if p.chip = .w3 then evs = w3WriteEvents p a [v] else ∃ status, evs = i2cWriteEvents p a [v] status

/-- The register writes of an initialisation image, in order (R116). -/
def ImageWritten (p : Params) : List (Byte × Byte) → List Event → Prop
  | [], evs => evs = []
  | (a, v) :: rest, evs => ∃ first others, evs = first ++ others ∧
      IsRegisterWrite p a v first ∧ ImageWritten p rest others

/-! ### How an operation ends, and what it leaves alone -/

/-- The operation has ended (R50, R205, R241) and has not touched the configuration (R15), the operand ports, the host's
coming moves or the reset input. -/
def Ended (s t : State) : Prop :=
  t.busy = false ∧ t.done = true ∧ t.phase = .idle ∧ t.start = false ∧
  t.cfg = s.cfg ∧ t.ports = s.ports ∧ t.host = s.host ∧ t.resetIn = s.resetIn

/-- A pure operation (R30): it has ended, no event was emitted, and the lines, the working registers and the device,
with every byte of its memory, are as before. -/
def EndedPure (s t : State) : Prop :=
  Ended s t ∧ t.trace = s.trace ∧ t.pins = s.pins ∧ t.work = s.work ∧ t.env = s.env

/-- The operation has ended and exactly the events `evs` happened, in this order (R42): they were appended to the trace, and
the lines and the device are as these events leave them. -/
def EndedWith (s t : State) (evs : List Event) : Prop :=
  Ended s t ∧ t.trace = s.trace ++ evs ∧
  t.pins = evs.foldl Pins.after s.pins ∧ t.env = evs.foldl Env.after s.env

/-- One byte of the reference device's registers. -/
def State.deviceByte (s : State) (a : Byte) : Byte := s.env.mem.read a.toNat

/-- No register of the device has changed. -/
def DeviceUnchanged (s t : State) : Prop := ∀ a, t.deviceByte a = s.deviceByte a

/-- What a refused operation leaves (R75): `ill` alone among the results, `done`, and everything else as it was. -/
def Refused (s t : State) : Prop :=
  EndedPure s t ∧ t.draws = s.draws ∧ t.res = Results.zero ∧ t.status = { Status.zero with ill := true }

/-! ### Legal use of the lines, invariant -/

/-- The direction of the data line after an event, if the event uses the line legally: the block drives it only while
`DIR = OUT` and samples it only while `DIR = IN` (R94, R238). -/
def lineStep (d : Dir) : Event → Option Dir
  | .dir d' => some d'
  | .sample _ => match d with
    | .inp => some d
    | .out => none
  | .dout _ => match d with
    | .out => some d
    | .inp => none
  | .clk _ | .en _ | .delay _ => some d
  | .i2cBegin _ | .i2cWrite _ | .i2cEnd _ | .i2cRequest _ _ | .i2cRead _ => some d

/-- The same for a list of events; `none` as soon as one of them uses the line illegally. -/
def lineAfter : Dir → List Event → Option Dir
  | d, [] => some d
  | d, e :: es =>
    match lineStep d e with
    | some d' => lineAfter d' es
    | none => none

/-- Between steps no operation is in progress (R205, R241), the clock line is low (R90), every use of the data line in
the trace was legal (R94, R238), the lines stand where the trace's events left them (R42), the I2C chips never move
them (R13), and the reference device's memory is in canonical form. -/
def State.Inv (s : State) : Prop :=
  s.busy = false ∧ s.phase = .idle ∧ s.pins.clk = false ∧
  lineAfter .inp s.trace = some s.pins.dir ∧
  (s.trace.foldl Pins.after Pins.idle).clk = s.pins.clk ∧
  (s.trace.foldl Pins.after Pins.idle).en = s.pins.en ∧
  (s.cfg.chip ≠ .w3 → s.pins = Pins.idle) ∧
  s.env.mem.wf = true

/-- The events that touch the enable line, in order. -/
def enableEvents (evs : List Event) : List Event :=
  evs.filter fun e => e == .en true || e == .en false

/-- An event of the 3-wire pins. -/
def isPinEvent : Event → Bool
  | .clk _ | .en _ | .dout _ | .dir _ | .sample _ | .delay _ => true
  | .i2cBegin _ | .i2cWrite _ | .i2cEnd _ | .i2cRequest _ _ | .i2cRead _ => false

/-- A CivilTime record within its documented ranges (R20), with a year offset from `lo` to `hi`. -/
def CivilTime.inRange (t : CivilTime) (lo hi : Nat) : Prop :=
  t.second.toNat ≤ 59 ∧ t.minute.toNat ≤ 59 ∧ t.hour.toNat ≤ 23 ∧ 1 ≤ t.mday.toNat ∧ t.mday.toNat ≤ 31 ∧
  t.month.toNat ≤ 11 ∧ t.wday.toNat ≤ 6 ∧ lo ≤ t.year.toNat ∧ t.year.toNat ≤ hi

/-! ### The spec's formulas, as claims state them -/

/-- The formula of R80 on natural numbers. -/
def bcdValue (b : Byte) : Nat := b.toNat - 6 * (b.toNat / 16)

/-- The boolean `RUN.SET c` asks for: `c XOR RUN_STOP_VALUE` (R194), any boolean for a stop value other than 0 and 1
(log 14). -/
def RunWanted (p : Params) (c want : Bool) : Prop :=
  (p.runStopValue = 0x00#8 → want = c) ∧ (p.runStopValue = 0x01#8 → want = !c)

/-- The byte the formula of R81 gives for a value reduced modulo 256 (R129). -/
def bcdByte (v : Nat) : Byte := BitVec.ofNat 8 (v % 256 + 6 * (v % 256 / 10))

/-- The public weekday of a masked wire byte on the chips where 7 is Sunday (R140). -/
def weekdayOfWire (w : Byte) : Byte := if w = 0x07#8 then 0x00#8 else w

/-- The wire byte of a public weekday on those chips (R140). -/
def wireOfWeekday (w : Byte) : Byte := if w = 0x00#8 then 0x07#8 else bcdByte w.toNat

/-- The decode operation of a chip variant (R51, R145). -/
def decOf : Chip → Instr
  | .w3 => .timeDec3W
  | .a => .timeDecA
  | .b => .timeDecB
  | .c => .timeDecC
  | .d => .timeDecD

/-- The encode operation of a chip variant (R51, R146). -/
def encOf : Chip → Instr
  | .w3 => .timeEnc3W
  | .a => .timeEncA
  | .b => .timeEncB
  | .c => .timeEncC
  | .d => .timeEncD

/-- Two records are equal, but for a weekday that chip C leaves to the environment (R141): a one-hot byte `hot` with no
bit set. -/
def SameDecode (v : Chip) (hot : Byte) (x y : CivilTime) : Prop :=
  x.second = y.second ∧ x.minute = y.minute ∧ x.hour = y.hour ∧ x.mday = y.mday ∧ x.month = y.month ∧
  x.year = y.year ∧ ((v = .c → hot ≠ 0x00#8) → x.wday = y.wday)

/-- The result ports and status bits of R50 and R14, but for `ill`. -/
inductive ResultPort where
  | r
  | r16
  | rbuf
  | rt
  | rrate
  | rdd
  | rsel
  | wrNeeded
  | oor
  | rateInvalid
  | present
deriving DecidableEq, Repr

/-- The ports an operation presents results on: the column "results out" of R52, with the `rbuf` of R145 and R146 and the
`r` of R116. -/
def resultsOf : Instr → List ResultPort
  | .bcdDec | .bcdEnc | .serRdb | .w3Rd | .i2cRd | .flagGet | .regRd | .runGet => [.r]
  | .serWrb | .txnBegin | .txnEnd | .w3Wr | .w3Bwr | .i2cWr | .i2cBwr | .regWr => []
  | .w3Brd | .i2cBrd | .timeSet | .timeEnc3W | .timeEncA | .timeEncB | .timeEncC | .timeEncD
  | .alm4Enc | .alm3Enc => [.rbuf]
  | .i2cProbe => [.present, .r]
  | .timeDec3W | .timeDecA | .timeDecB | .timeDecC | .timeDecD => [.rt]
  | .timeGet => [.rbuf, .rt]
  | .alm4Dec | .alm3Dec => [.rrate, .rt, .rateInvalid]
  | .almdDec => [.rdd]
  | .almdEnc => [.rbuf, .rsel]
  | .tcsDec => [.r, .rateInvalid]
  | .flagEval => [.r, .wrNeeded]
  | .flagSet | .runSet => [.wrNeeded]
  | .ramRd => [.r, .oor]
  | .ramWr => [.oor]
  | .ageDec | .tempDec => [.r16]

/-- A port shows 0 (`Unset` in every field of `rdd`). -/
def State.portIsZero (t : State) : ResultPort → Bool
  | .r => t.res.r == 0
  | .r16 => t.res.r16 == 0
  | .rbuf => t.res.rbuf == Buf.zero
  | .rt => t.res.rt == CivilTime.zero
  | .rrate => t.res.rrate == 0
  | .rdd => t.res.rdd == AlarmDD.off
  | .rsel => !t.res.rsel
  | .wrNeeded => !t.status.wrNeeded
  | .oor => !t.status.oor
  | .rateInvalid => !t.status.rateInvalid
  | .present => !t.status.present

/-- What each operation that reads one register presents when the device answers it with `v` (R181, R182, R185, R187, R193,
R194); `used` says what then remains of the device's answers. -/
def OneByteAnswered (s : State) (v : Byte) (used : Env → Prop) : Prop :=
  (∃ t, exec .regRd s = .next t ∧ t.res.r = v ∧ used t.env) ∧
  (s.ports.a.toNat < s.cfg.ramSize → ∃ t, exec .ramRd s = .next t ∧ t.res.r = v ∧ used t.env) ∧
  (∃ t, exec .flagGet s = .next t ∧ t.res.r = (if v &&& s.ports.b ≠ 0x00#8 then 0x01#8 else 0x00#8) ∧ used t.env) ∧
  (∃ t, exec .runGet s = .next t ∧ used t.env ∧
    t.res.r = (if (if v &&& s.cfg.runMask ≠ 0x00#8 then 0x01#8 else 0x00#8) ≠ s.cfg.runStopValue
      then 0x01#8 else 0x00#8)) ∧
  (∃ t, exec .flagSet s = .next t ∧ used t.env ∧
    (t.status.wrNeeded = true ↔ v &&& s.ports.b ≠ if s.ports.c then s.ports.b else 0x00#8)) ∧
  (∃ t want, exec .runSet s = .next t ∧ used t.env ∧ RunWanted s.cfg s.ports.c want ∧
    (t.status.wrNeeded = true ↔ v &&& s.cfg.runMask ≠ if want then s.cfg.runMask else 0x00#8))

/-- `n` consecutive register addresses from `a`, modulo 256 (R25, R34). -/
def addressesFrom (a : Byte) (n : Nat) : List Byte := (List.range n).map fun k => a + BitVec.ofNat 8 k

/-- The registers of the device an operation may store to, on the I2C chips: the operands and parameters its rule names
(R74, R112, R114, R116, R146, R181, R186, R188, R189, R194). -/
def storedAddresses (i : Instr) (s : State) : List Byte :=
  match i with
  | .i2cWr | .regWr | .flagSet => [s.ports.a]
  | .i2cBwr => addressesFrom s.ports.a s.ports.n.toNat
  | .i2cProbe => if checksVoltage s.cfg.chip then s.cfg.initImage.map (·.1) else []
  | .timeSet => addressesFrom s.cfg.timeBase 7
  | .ramWr => if ramOutOfRange s.cfg s.ports.a then [] else [ramAddr s.cfg s.ports.a]
  | .runSet => [s.cfg.runReg]
  | .bcdDec | .bcdEnc | .serWrb | .serRdb | .txnBegin | .txnEnd | .w3Rd | .w3Wr | .w3Brd | .w3Bwr
  | .i2cRd | .i2cBrd | .timeDec3W | .timeDecA | .timeDecB | .timeDecC | .timeDecD | .timeGet
  | .timeEnc3W | .timeEncA | .timeEncB | .timeEncC | .timeEncD
  | .alm4Dec | .alm4Enc | .alm3Dec | .alm3Enc | .almdDec | .almdEnc | .tcsDec
  | .flagEval | .flagGet | .ramRd | .regRd | .runGet | .ageDec | .tempDec => []

/-- The block's state as R27 gives it after a reset, but for the trace and the configuration. -/
def AtReset (t : State) : Prop :=
  t.pins.en = false ∧ t.pins.clk = false ∧ t.pins.dir = .inp ∧ t.pins.dout = false ∧ t.phase = .idle ∧
  t.status = Status.zero ∧ t.res = Results.zero

/-- The block waits in IDLE for the host's next `start`, with no reset to come (R225; log 6, log 10). -/
def Waits (t : State) : Prop := t.busy = false ∧ t.phase = .idle ∧ t.start = false ∧ t.resetIn = none

/-- The events of a reset, in order (R225). -/
def resetEvents : List Event := [.en false, .clk false, .dir .inp]

/-- A day/date alarm record within its ranges, with at most one of `mday` and `wdays` (R167, R170). -/
def AlarmDD.inRange (d : AlarmDD) : Prop :=
  (∀ v, d.minute = some v → v.toNat ≤ 59) ∧ (∀ v, d.hour = some v → v.toNat ≤ 23) ∧
  (∀ v, d.mday = some v → 1 ≤ v.toNat ∧ v.toNat ≤ 31) ∧ (∀ v, d.wdays = some v → v.toNat < 128)

end Sys2Proof.Machine
end

