-- ==== Sys2Proof/Certificates/Slice0/Obligations.lean ====
section
/-! DEFINITION. The statements for the provers. Each docstring names the rule a statement formalises; where a clause is the
model's choice it names the log entry. -/

section

open Sys2Proof Sys2Proof.Machine

/-! ### Encoding, the step, refusal, reset -/

/-- The opcodes and the rate numbers of R52, written out. -/
def Obligations.OpcodeMapWords : Prop :=
  decode 0x10#8 = .ok .bcdDec ∧ decode 0x11#8 = .ok .bcdEnc ∧
  decode 0x20#8 = .ok .serWrb ∧ decode 0x21#8 = .ok .serRdb ∧ decode 0x22#8 = .ok .txnBegin ∧
  decode 0x23#8 = .ok .txnEnd ∧ decode 0x24#8 = .ok .w3Rd ∧ decode 0x25#8 = .ok .w3Wr ∧
  decode 0x26#8 = .ok .w3Brd ∧ decode 0x27#8 = .ok .w3Bwr ∧
  decode 0x30#8 = .ok .i2cRd ∧ decode 0x31#8 = .ok .i2cWr ∧ decode 0x32#8 = .ok .i2cBrd ∧
  decode 0x33#8 = .ok .i2cBwr ∧ decode 0x34#8 = .ok .i2cProbe ∧
  decode 0x40#8 = .ok .timeDec3W ∧ decode 0x41#8 = .ok .timeDecA ∧ decode 0x42#8 = .ok .timeDecB ∧
  decode 0x43#8 = .ok .timeDecC ∧ decode 0x44#8 = .ok .timeDecD ∧ decode 0x46#8 = .ok .timeGet ∧
  decode 0x47#8 = .ok .timeSet ∧ decode 0x48#8 = .ok .timeEnc3W ∧ decode 0x49#8 = .ok .timeEncA ∧
  decode 0x4A#8 = .ok .timeEncB ∧ decode 0x4B#8 = .ok .timeEncC ∧ decode 0x4C#8 = .ok .timeEncD ∧
  decode 0x50#8 = .ok .alm4Dec ∧ decode 0x51#8 = .ok .alm4Enc ∧ decode 0x52#8 = .ok .alm3Dec ∧
  decode 0x53#8 = .ok .alm3Enc ∧ decode 0x54#8 = .ok .almdDec ∧ decode 0x55#8 = .ok .almdEnc ∧
  decode 0x56#8 = .ok .tcsDec ∧
  decode 0x60#8 = .ok .flagEval ∧ decode 0x61#8 = .ok .flagSet ∧ decode 0x62#8 = .ok .flagGet ∧
  decode 0x63#8 = .ok .ramRd ∧ decode 0x64#8 = .ok .ramWr ∧ decode 0x65#8 = .ok .regRd ∧
  decode 0x66#8 = .ok .regWr ∧ decode 0x67#8 = .ok .runGet ∧ decode 0x68#8 = .ok .runSet ∧
  decode 0x69#8 = .ok .ageDec ∧ decode 0x6A#8 = .ok .tempDec ∧
  [Rate4.everySecond, .matchSeconds, .matchMinutes, .matchHours, .matchDate, .matchWeekday, .invalid].map Rate4.code
    = [0, 1, 2, 3, 4, 5, 7] ∧
  [Rate3.everyMinute, .matchMinutes, .matchHours, .matchDate, .matchWeekday, .invalid].map Rate3.code
    = [0, 2, 3, 4, 5, 7]

/-- Decoder and encoder agree in both directions: every operation has one opcode, and every byte that is not an opcode of
R52 is rejected (R51, R75). -/
def Obligations.DecodeAndEncodeAgree : Prop :=
  (∀ i : Instr, decode (encode i) = .ok i) ∧
  (∀ (op : Byte) (i : Instr), decode op = .ok i → encode i = op) ∧
  (∀ op : Byte, (∀ i : Instr, encode i ≠ op) → decode op = .error (.reservedOpcode op))

/-- A step of an idle block with `start` raised and no reset pending is the operation its `op` port decodes to (R50). The
other clauses are the model's choice, log 11: with `start` low the block waits, or the host makes its next move, which
presents a request, asks for a reset, or does both (the reset then after `k` primitive steps, log 10). -/
def Obligations.StepRunsDecodedOperation : Prop :=
  (∀ (s : State) (i : Instr), s.start = true → s.busy = false → s.resetIn = none → decode s.ports.op = .ok i →
    step s = exec i s) ∧
  (∀ s : State, s.start = false → s.resetIn = none → s.host = [] → step s = .next s) ∧
  (∀ (s : State) (r : Request) (ms : List HostMove), s.start = false → s.resetIn = none → s.host = .issue r :: ms →
    step s = .next { s with ports := r, start := true, host := ms }) ∧
  (∀ (s : State) (ms : List HostMove), s.start = false → s.resetIn = none → s.host = .reset :: ms →
    step s = .next { s with resetIn := some 0, host := ms }) ∧
  (∀ (s : State) (r : Request) (k : Nat) (ms : List HostMove), s.start = false → s.resetIn = none →
    s.host = .issueThenReset r k :: ms →
    step s = .next { s with ports := r, start := true, resetIn := some k, host := ms })

/-- R75: a reserved opcode, an operation of the wrong transport family and a burst length outside 1..8 are refused, and
nothing else is. The last clause leaves out a `TIME.GET` on 3W whose length register is outside 1..8 (log 15). -/
def Obligations.RefusedExactlyWhenRequired : Prop :=
  ∀ s : State, s.start = true → s.busy = false → s.resetIn = none →
    (∀ e, decode s.ports.op = .error e → ∃ t, step s = .next t ∧ Refused s t) ∧
    (∀ i : Instr, decode s.ports.op = .ok i →
      ((i.family = .serial ∧ s.cfg.chip ≠ .w3) ∨ (i.family = .i2c ∧ s.cfg.chip = .w3) ∨
        (i ∈ [Instr.w3Brd, .w3Bwr, .i2cBrd, .i2cBwr] ∧ ¬ (1 ≤ s.ports.n.toNat ∧ s.ports.n.toNat ≤ 8)) →
        ∃ t, step s = .next t ∧ Refused s t) ∧
      (¬ ((i.family = .serial ∧ s.cfg.chip ≠ .w3) ∨ (i.family = .i2c ∧ s.cfg.chip = .w3) ∨
        (i ∈ [Instr.w3Brd, .w3Bwr, .i2cBrd, .i2cBwr] ∧ ¬ (1 ≤ s.ports.n.toNat ∧ s.ports.n.toNat ≤ 8))) →
        (i = .timeGet → s.cfg.chip = .w3 → 1 ≤ s.cfg.burstRdLen ∧ s.cfg.burstRdLen ≤ 8) →
        ∃ t, step s = .next t ∧ t.status.ill = false))

/-- R237: a `start` raised while `busy` is ignored and lost, with no event, no result and no `done` for it. That the request
is lost is that `start`, up for one step (R50), falls unserved: the model's reading, log 12. -/
def Obligations.StartWhileBusyIsLost : Prop :=
  ∀ s : State, s.start = true → s.busy = true → s.resetIn = none → step s = .next { s with start := false }

/-- R225: a reset sets every element to the value of R27 and emits its three events, at rest, in place of a refused opcode
(which has no step of its own), or after any number of primitive steps of an operation, which it abandons there; the
device and the configuration are not touched, the reset is used up, and the block then waits for the host. That the
reset input is `resetIn`, and that a `k` beyond the last primitive step resets right after it, is the model's choice,
log 10; that `busy` and `start` are low after it and the operand ports as the host drives them rests on log 6 and log 8. -/
def Obligations.ResetAbandonsTheOperation : Prop :=
  (∀ (s : State) (k : Nat), s.resetIn = some k →
    (s.start = false ∨ s.busy = true ∨ ∃ e, decode s.ports.op = .error e) →
    ∃ t, step s = .next t ∧ AtReset t ∧ Waits t ∧ t.trace = s.trace ++ resetEvents ∧ t.env = s.env ∧ t.cfg = s.cfg ∧
      t.ports = s.ports ∧ t.host = s.host ∧ (s.host = [] → step t = .next t)) ∧
  (∀ (s : State) (k : Nat) (i : Instr), s.resetIn = some k → s.start = true → s.busy = false →
    decode s.ports.op = .ok i →
    ∃ u evs t, exec i s = .next u ∧ EndedWith s u evs ∧ step s = .next t ∧ AtReset t ∧ Waits t ∧
      t.trace = s.trace ++ evs.take k ++ resetEvents ∧ t.env = (evs.take k).foldl Env.after s.env ∧ t.cfg = s.cfg ∧
      t.ports = s.ports ∧ t.host = s.host ∧ (s.host = [] → step t = .next t))

/-- R205: every operation that is started runs to its end and raises `done`; nothing faults, and no step is refused. -/
def Obligations.EveryOperationEnds : Prop :=
  (∀ (i : Instr) (s : State), ∃ t, exec i s = .next t ∧ Ended s t) ∧ (∀ s : State, ∃ t, step s = .next t)

/-- R27: the state after a power-on reset, for every configuration and every device. -/
def Obligations.StateAfterReset : Prop :=
  (∀ (c : Params) (e : Env), AtReset (State.afterReset c e) ∧ (State.afterReset c e).trace = resetEvents ∧
    (State.afterReset c e).cfg = c) ∧
  ∃ (c : Params) (e : Env), State.reset = State.afterReset c e

/-! ### Invariant, events, frames -/

/-- The invariant holds right after reset, for every configuration and every device with canonical memory. -/
def Obligations.InvariantHoldsAfterReset : Prop :=
  State.reset.Inv ∧ ∀ (c : Params) (e : Env), e.mem.wf = true → (State.afterReset c e).Inv

/-- Every step keeps the invariant: the block is idle between steps (R241), the clock line is low (R90), no sample and no
drive of the data line was ever against its direction (R94, R238), the lines stand where the trace left them (R42), the
I2C chips never move them (R13), and the reference device's memory keeps its canonical form. -/
def Obligations.InvariantKeptByEveryStep : Prop :=
  ∀ s t : State, s.Inv → step s = .next t → t.Inv

/-- R42, R94, R238: an operation acts on the lines and on the device through the events it appends to the trace and in no
other way, and from whatever direction the data line has, each of those events uses it legally. -/
def Obligations.OperationsActThroughEvents : Prop :=
  ∀ (i : Instr) (s : State), ∃ t evs, exec i s = .next t ∧ EndedWith s t evs ∧
    lineAfter s.pins.dir evs = some t.pins.dir

/-- R11: what the working registers hold before an operation changes nothing but what they hold after it. -/
def Obligations.WorkingRegistersCarryNothing : Prop :=
  ∀ (i : Instr) (s : State) (w : Work), ∃ t u, exec i s = .next t ∧ exec i { s with work := w } = .next u ∧
    { u with work := t.work } = t

/-- R13, R33: the 3-wire chip is reached by pin events only, the I2C chips by I2C events only, and these leave the lines and
the working registers alone. -/
def Obligations.EachChipUsesItsTransport : Prop :=
  ∀ (i : Instr) (s : State), ∃ t evs, exec i s = .next t ∧ EndedWith s t evs ∧
    (s.cfg.chip = .w3 → ∀ e ∈ evs, isPinEvent e = true) ∧
    (s.cfg.chip ≠ .w3 → (∀ e ∈ evs, isPinEvent e = false) ∧ t.pins = s.pins ∧ t.work = s.work)

/-- The frame of the results: an operation shows 0 on every port that is not its own, moves the free-value counter only to
decode a chip C weekday, and does not look at what the operation before left (R14, R210). That the other ports show 0 is
the model's choice, log 5; the counter is log 9. -/
def Obligations.ResultsAreThisOperationsOwn : Prop :=
  (∀ (i : Instr) (s t : State) (p : ResultPort), exec i s = .next t → p ∉ resultsOf i → t.portIsZero p = true) ∧
  (∀ (i : Instr) (s t : State), exec i s = .next t → i ≠ .timeDecC → (i = .timeGet → s.cfg.chip ≠ .c) →
    t.draws = s.draws) ∧
  (∀ (i : Instr) (s : State) (r : Results) (st : Status) (d : Bool),
    exec i { s with res := r, status := st, done := d } = exec i s)

/-- The frame of the device's registers (log 4): a register outside the addresses an operation stores to reads as before. -/
def Obligations.OtherDeviceRegistersUnchanged : Prop :=
  ∀ (i : Instr) (s t : State), s.env.mem.wf = true → exec i s = .next t →
    ∀ a : Byte, a ∉ storedAddresses i s → t.deviceByte a = s.deviceByte a

/-- No register of the device changes where the rule writes none: on the 3-wire chip and with the oracle as the device
(R31, log 4), in a flag accessor that needs no write (R181), in a probe that did not re-initialise (R115, R116), in a RAM
write out of range (R188). -/
def Obligations.NothingStoredWhereNothingIsWritten : Prop :=
  ∀ (i : Instr) (s t : State), exec i s = .next t →
    (s.cfg.chip = .w3 ∨ s.env.mode = .oracle ∨
     (i ∈ [Instr.flagSet, .runSet] ∧ t.status.wrNeeded = false) ∨
     (i = .i2cProbe ∧ t.res.r = 0x00#8) ∨
     (i = .ramWr ∧ t.status.oor = true)) →
    DeviceUnchanged s t

/-- The reference device of `95_test_vectors.md` (log 4) holds what the block writes: single registers, RAM bytes, bursts
and the time, byte `k` of a burst at the `k`-th address after the first (R34). -/
def Obligations.ReferenceDeviceHoldsWhatIsWritten : Prop :=
  ∀ s : State, s.cfg.chip ≠ .w3 → s.env.mode = .reference → s.env.mem.wf = true →
    (∃ t, exec .i2cWr s = .next t ∧ t.deviceByte s.ports.a = s.ports.b) ∧
    (∃ t, exec .regWr s = .next t ∧ t.deviceByte s.ports.a = s.ports.b) ∧
    (s.ports.a.toNat < s.cfg.ramSize →
      ∃ t, exec .ramWr s = .next t ∧
        t.deviceByte (BitVec.ofNat 8 (s.cfg.ramBase.toNat + s.ports.a.toNat * s.cfg.ramStride.toNat)) = s.ports.b) ∧
    (1 ≤ s.ports.n.toNat → s.ports.n.toNat ≤ 8 → ∃ t, exec .i2cBwr s = .next t ∧
      ∀ k, k < s.ports.n.toNat → t.deviceByte (s.ports.a + BitVec.ofNat 8 k) = s.ports.buf.toList.getD k 0) ∧
    (∃ t, exec .timeSet s = .next t ∧
      ∀ k, k < 7 → t.deviceByte (s.cfg.timeBase + BitVec.ofNat 8 k) = t.res.rbuf.toList.getD k 0)

/-- The reference device of `95_test_vectors.md` (log 4) answers with what it holds: single registers, RAM bytes, bursts and
the time (R25, R34). -/
def Obligations.ReferenceDeviceAnswersWhatItHolds : Prop :=
  ∀ s : State, s.cfg.chip ≠ .w3 → s.env.mode = .reference →
    (∃ t, exec .i2cRd s = .next t ∧ t.res.r = s.deviceByte s.ports.a) ∧
    (∃ t, exec .regRd s = .next t ∧ t.res.r = s.deviceByte s.ports.a) ∧
    (s.ports.a.toNat < s.cfg.ramSize →
      ∃ t, exec .ramRd s = .next t ∧ t.res.r =
        s.deviceByte (BitVec.ofNat 8 (s.cfg.ramBase.toNat + s.ports.a.toNat * s.cfg.ramStride.toNat))) ∧
    (1 ≤ s.ports.n.toNat → s.ports.n.toNat ≤ 8 → ∃ t, exec .i2cBrd s = .next t ∧
      ∀ k, k < s.ports.n.toNat → t.res.rbuf.toList.getD k 0 = s.deviceByte (s.ports.a + BitVec.ofNat 8 k)) ∧
    (∃ t, exec .timeGet s = .next t ∧
      ∀ k, k < 7 → t.res.rbuf.toList.getD k 0 = s.deviceByte (s.cfg.timeBase + BitVec.ofNat 8 k))

/-- The time set on an I2C chip with the reference device (log 4) is the time got from it, for every record in range
(R145, R146, R147; program P3 is one case). -/
def Obligations.TimeSetThenGetReturnsTheTime : Prop :=
  ∀ (s t : State), s.cfg.chip ≠ .w3 → s.env.mode = .reference → s.env.mem.wf = true →
    s.cfg.masks = FieldMasks.table →
    s.ports.t.inRange
      (if s.cfg.chip = .b ∨ s.cfg.chip = .d then 0 else s.cfg.yearBias.toNat)
      (if s.cfg.chip = .b ∨ s.cfg.chip = .d then 199 else s.cfg.yearBias.toNat + 99) →
    exec .timeSet s = .next t →
    ∃ u, exec .timeGet t = .next u ∧ u.res.rt = s.ports.t

/-- R31: a read returns what the device supplies next, whatever the block wrote before, and uses it up: every operation that
reads one byte (R181, R182, R187, R193, R194), the burst reads (R102, R113, R145), and the probe (R115) with the
voltage-low check of R116. The queues of given answers are the model's form of the oracle, log 3. R145 gives `rbuf[0..6]`
of `TIME.GET` alone: that on 3W a length register of 8 brings the eighth byte on `rbuf[7]` is the model's choice, log 15.
With a stop value other than 0 and 1 the flag `RUN.SET` wants is any boolean, log 14. -/
def Obligations.DeviceAnswersAreTakenInOrder : Prop :=
  (∀ (s : State) (given rest : List Bool) (v : Byte), s.cfg.chip = .w3 → s.env.levels = given ++ rest →
    SampledAs given v →
    (∀ i ∈ [Instr.serRdb, .w3Rd], ∃ t, exec i s = .next t ∧ t.res.r = v ∧ t.env.levels = rest) ∧
    OneByteAnswered s v (fun e => e.levels = rest)) ∧
  (∀ (s : State) (answers : List (List Bool)) (bytes : List Byte) (rest : List Bool), s.cfg.chip = .w3 →
    s.env.levels = answers.flatten ++ rest → SampledAll answers bytes →
    (s.ports.n.toNat = bytes.length → 1 ≤ bytes.length → bytes.length ≤ 8 →
      ∃ t, exec .w3Brd s = .next t ∧ t.res.rbuf.first bytes.length = bytes ∧ t.env.levels = rest) ∧
    (s.cfg.burstRdLen = bytes.length → 7 ≤ bytes.length → bytes.length ≤ 8 →
      ∃ t, exec .timeGet s = .next t ∧ t.res.rbuf.first bytes.length = bytes ∧ t.env.levels = rest)) ∧
  (∀ (s : State) (v : Byte) (rest : List Byte), s.cfg.chip ≠ .w3 → s.env.mode = .oracle → s.env.bytes = v :: rest →
    (∃ t, exec .i2cRd s = .next t ∧ t.res.r = v ∧ t.env.bytes = rest) ∧
    OneByteAnswered s v (fun e => e.bytes = rest)) ∧
  (∀ (s : State) (given rest : List Byte), s.cfg.chip ≠ .w3 → s.env.mode = .oracle → s.env.bytes = given ++ rest →
    (s.ports.n.toNat = given.length → 1 ≤ given.length → given.length ≤ 8 →
      ∃ t, exec .i2cBrd s = .next t ∧ t.res.rbuf.first given.length = given ∧ t.env.bytes = rest) ∧
    (given.length = 7 →
      ∃ t, exec .timeGet s = .next t ∧ t.res.rbuf.first 7 = given ∧ t.env.bytes = rest)) ∧
  (∀ (s : State) (st : Nat) (rest : List Nat), s.cfg.chip ≠ .w3 → s.env.mode = .oracle →
    s.env.statuses = st :: rest →
    ∃ t, exec .i2cProbe s = .next t ∧ t.status.present = decide (st = 0) ∧
      (st ≠ 0 ∨ s.cfg.chip = .a ∨ s.cfg.chip = .b → t.env.statuses = rest ∧ t.env.bytes = s.env.bytes) ∧
      (st = 0 → s.cfg.chip = .c ∨ s.cfg.chip = .d → ∀ v more, s.env.bytes = v :: more →
        t.env.bytes = more ∧
        (v &&& s.cfg.vlMask = 0x00#8 → t.env.statuses = rest.drop 1) ∧
        (v &&& s.cfg.vlMask ≠ 0x00#8 → t.env.statuses = rest.drop (1 + s.cfg.initImage.length))))

/-- R110, R206: the status of `i2c.end()` changes no result and no status bit of any operation but the probe. -/
def Obligations.AcknowledgmentSeenByTheProbeOnly : Prop :=
  ∀ (i : Instr) (s : State) (sts : List Nat), i ≠ .i2cProbe →
    ∃ t u, exec i s = .next t ∧ exec i { s with env := { s.env with statuses := sts } } = .next u ∧
      u.res = t.res ∧ u.status = t.status ∧ u.draws = t.draws

/-! ### BCD -/

/-- R80: `BCD.DEC`. -/
def Obligations.BcdDecodeIsTheFormula : Prop :=
  ∀ s : State, ∃ t, exec .bcdDec s = .next t ∧ EndedPure s t ∧
    t.res.r.toNat = s.ports.a.toNat - 6 * (s.ports.a.toNat / 16) ∧ t.res.r.toNat ≤ 165 ∧
    (s.ports.a.toNat / 16 ≤ 9 → s.ports.a.toNat % 16 ≤ 9 →
      t.res.r.toNat = 10 * (s.ports.a.toNat / 16) + s.ports.a.toNat % 16)

/-- R81: `BCD.ENC`. -/
def Obligations.BcdEncodeIsTheFormula : Prop :=
  ∀ s : State, ∃ t, exec .bcdEnc s = .next t ∧ EndedPure s t ∧
    t.res.r.toNat = (s.ports.a.toNat + 6 * (s.ports.a.toNat / 10)) % 256 ∧
    (s.ports.a.toNat ≤ 99 →
      t.res.r.toNat / 16 = s.ports.a.toNat / 10 ∧ t.res.r.toNat % 16 = s.ports.a.toNat % 10)

/-- R82: the two round trips. -/
def Obligations.BcdRoundTrips : Prop :=
  (∀ s : State, s.ports.a.toNat ≤ 99 →
    ∃ t u, exec .bcdEnc s = .next t ∧
      exec .bcdDec { t with ports := { t.ports with a := t.res.r } } = .next u ∧ u.res.r = s.ports.a) ∧
  (∀ s : State, s.ports.a.toNat / 16 ≤ 9 → s.ports.a.toNat % 16 ≤ 9 →
    ∃ t u, exec .bcdDec s = .next t ∧
      exec .bcdEnc { t with ports := { t.ports with a := t.res.r } } = .next u ∧ u.res.r = s.ports.a)

/-! ### Serial and 3-wire -/

/-- R91: `SER.WRB`. -/
def Obligations.SerialWriteSendsTheByte : Prop :=
  ∀ s : State, s.cfg.chip = .w3 →
    ∃ t, exec .serWrb s = .next t ∧ EndedWith s t (sendEvents s.cfg.tSettle s.ports.a) ∧
      t.trace.length = s.trace.length + 33 ∧
      t.pins.dir = .out ∧ t.pins.dout = s.ports.a.getLsbD 7 ∧ t.pins.clk = false ∧ t.pins.en = s.pins.en

/-- R93: `SER.RDB`. -/
def Obligations.SerialReadSamplesTheByte : Prop :=
  ∀ s : State, s.cfg.chip = .w3 →
    ∃ t bits, exec .serRdb s = .next t ∧ EndedWith s t (receiveEvents s.cfg.tSettle bits) ∧
      SampledAs bits t.res.r ∧ t.trace.length = s.trace.length + 33 ∧
      t.pins.dir = .inp ∧ t.pins.clk = false ∧ t.pins.dout = s.pins.dout ∧ t.pins.en = s.pins.en

/-- R96, R97: `TXN.BEGIN` and `TXN.END`. -/
def Obligations.FramingEntryAndExit : Prop :=
  ∀ s : State, s.cfg.chip = .w3 →
    (∃ t, exec .txnBegin s = .next t ∧ EndedWith s t [.clk false, .en true, .delay s.cfg.tSetup] ∧
      t.pins = { s.pins with clk := false, en := true }) ∧
    (∃ t, exec .txnEnd s = .next t ∧ EndedWith s t [.en false, .delay s.cfg.tHold] ∧
      t.pins = { s.pins with en := false })

/-- R100: `W3.RD`. -/
def Obligations.ThreeWireReadIsOneFrame : Prop :=
  ∀ s : State, s.cfg.chip = .w3 →
    ∃ t bits, exec .w3Rd s = .next t ∧ EndedWith s t (w3ReadEvents s.cfg s.ports.a [bits]) ∧
      SampledAs bits t.res.r ∧ t.trace.length = s.trace.length + 71 ∧
      t.pins.en = false ∧ t.pins.clk = false ∧ t.pins.dir = .inp

/-- R101: `W3.WR`. -/
def Obligations.ThreeWireWriteIsOneFrame : Prop :=
  ∀ s : State, s.cfg.chip = .w3 →
    ∃ t, exec .w3Wr s = .next t ∧ EndedWith s t (w3WriteEvents s.cfg s.ports.a [s.ports.b]) ∧
      t.trace.length = s.trace.length + 71 ∧
      t.pins.en = false ∧ t.pins.clk = false ∧ t.pins.dir = .out ∧ t.pins.dout = s.ports.b.getLsbD 7

/-- R102: `W3.BRD`. -/
def Obligations.ThreeWireBurstReadIsOneFrame : Prop :=
  ∀ s : State, s.cfg.chip = .w3 → 1 ≤ s.ports.n.toNat → s.ports.n.toNat ≤ 8 →
    ∃ t answers, exec .w3Brd s = .next t ∧ EndedWith s t (w3ReadEvents s.cfg s.ports.a answers) ∧
      SampledAll answers (t.res.rbuf.first s.ports.n.toNat) ∧
      t.trace.length = s.trace.length + (3 + 33 + 33 * s.ports.n.toNat + 2)

/-- R103: `W3.BWR`. -/
def Obligations.ThreeWireBurstWriteIsOneFrame : Prop :=
  ∀ s : State, s.cfg.chip = .w3 → 1 ≤ s.ports.n.toNat → s.ports.n.toNat ≤ 8 →
    ∃ t, exec .w3Bwr s = .next t ∧
      EndedWith s t (w3WriteEvents s.cfg s.ports.a (s.ports.buf.toList.take s.ports.n.toNat)) ∧
      t.trace.length = s.trace.length + (3 + 33 + 33 * s.ports.n.toNat + 2)

/-- R98: each composite operation begins with the framing entry, ends with the framing exit, and has no enable event
between them. -/
def Obligations.EnableRisesAndFallsOncePerTransaction : Prop :=
  ∀ (s : State) (i : Instr), s.cfg.chip = .w3 → i ∈ [Instr.w3Rd, .w3Wr, .w3Brd, .w3Bwr] →
    (i ∈ [Instr.w3Brd, .w3Bwr] → 1 ≤ s.ports.n.toNat ∧ s.ports.n.toNat ≤ 8) →
    ∃ t mid, exec i s = .next t ∧
      EndedWith s t ([.clk false, .en true, .delay s.cfg.tSetup] ++ mid ++ [.en false, .delay s.cfg.tHold]) ∧
      enableEvents mid = []

/-! ### I2C -/

/-- R111, R112: `I2C.RD` and `I2C.WR`. -/
def Obligations.I2cRegisterReadAndWrite : Prop :=
  ∀ s : State, s.cfg.chip ≠ .w3 →
    (∃ t st, exec .i2cRd s = .next t ∧
      EndedWith s t [.i2cBegin s.cfg.devAddr, .i2cWrite s.ports.a, .i2cEnd st, .i2cRequest s.cfg.devAddr 1,
        .i2cRead t.res.r]) ∧
    (∃ t st, exec .i2cWr s = .next t ∧
      EndedWith s t [.i2cBegin s.cfg.devAddr, .i2cWrite s.ports.a, .i2cWrite s.ports.b, .i2cEnd st])

/-- R113: `I2C.BRD`. -/
def Obligations.I2cBurstReadIsOneTransmission : Prop :=
  ∀ s : State, s.cfg.chip ≠ .w3 → 1 ≤ s.ports.n.toNat → s.ports.n.toNat ≤ 8 →
    ∃ t st, exec .i2cBrd s = .next t ∧
      EndedWith s t ([.i2cBegin s.cfg.devAddr, .i2cWrite s.ports.a, .i2cEnd st,
        .i2cRequest s.cfg.devAddr s.ports.n.toNat] ++ (t.res.rbuf.toList.take s.ports.n.toNat).map .i2cRead)

/-- R114: `I2C.BWR`. -/
def Obligations.I2cBurstWriteIsOneTransmission : Prop :=
  ∀ s : State, s.cfg.chip ≠ .w3 → 1 ≤ s.ports.n.toNat → s.ports.n.toNat ≤ 8 →
    ∃ t st, exec .i2cBwr s = .next t ∧
      EndedWith s t ([.i2cBegin s.cfg.devAddr, .i2cWrite s.ports.a] ++
        (s.ports.buf.toList.take s.ports.n.toNat).map .i2cWrite ++ [.i2cEnd st])

/-- R115, with the voltage-low check of R116: `I2C.PROBE`. That every result port is 0 after the probe of an absent device is
the model's choice, log 5. -/
def Obligations.ProbeReportsPresence : Prop :=
  ∀ s : State, s.cfg.chip ≠ .w3 →
    ∃ t st more, exec .i2cProbe s = .next t ∧
      EndedWith s t ([.i2cBegin s.cfg.devAddr, .i2cEnd st] ++ more) ∧
      (t.status.present = true ↔ st = 0) ∧
      (st ≠ 0 ∨ s.cfg.chip = .a ∨ s.cfg.chip = .b → more = []) ∧
      (st ≠ 0 → t.pins = s.pins ∧ t.work = s.work ∧ t.draws = s.draws ∧ t.res = Results.zero) ∧
      (st = 0 → s.cfg.chip = .c ∨ s.cfg.chip = .d →
        ∃ st' v writes, more = i2cReadEvents s.cfg s.cfg.regVl st' [v] ++ writes ∧
          (v &&& s.cfg.vlMask ≠ 0x00#8 → t.res.r = 0x01#8 ∧ ImageWritten s.cfg s.cfg.initImage writes) ∧
          (v &&& s.cfg.vlMask = 0x00#8 → t.res.r = 0x00#8 ∧ writes = []))

/-! ### Time -/

/-- R130, R132: `TIME.DEC.3W` and `TIME.DEC.A`. The rules write the masks of R127 out; that the fields follow the FIELD_MASKS
registers, whatever they hold, is the model's reading, log 16. -/
def Obligations.TimeDecode3WAndA : Prop :=
  FieldMasks.table = ⟨0x7F#8, 0x7F#8, 0x3F#8, 0x3F#8, 0x1F#8, 0x07#8, 0x7F#8, 0xFF#8⟩ ∧
  ∀ s : State,
    (∃ t, exec .timeDec3W s = .next t ∧ EndedPure s t ∧
      t.res.rt.second.toNat = bcdValue (s.ports.buf.b0 &&& s.cfg.masks.second) ∧
      t.res.rt.minute.toNat = bcdValue (s.ports.buf.b1 &&& s.cfg.masks.minute) ∧
      t.res.rt.hour.toNat = bcdValue (s.ports.buf.b2 &&& s.cfg.masks.hour) ∧
      t.res.rt.mday.toNat = bcdValue (s.ports.buf.b3 &&& s.cfg.masks.date) ∧
      t.res.rt.month.toNat = (bcdValue (s.ports.buf.b4 &&& s.cfg.masks.month) + 255) % 256 ∧
      t.res.rt.wday = weekdayOfWire (s.ports.buf.b5 &&& s.cfg.masks.wdayNum) ∧
      t.res.rt.year.toNat = bcdValue (s.ports.buf.b6 &&& s.cfg.masks.year) + s.cfg.yearBias.toNat) ∧
    (∃ t, exec .timeDecA s = .next t ∧ EndedPure s t ∧
      t.res.rt.second.toNat = bcdValue (s.ports.buf.b0 &&& s.cfg.masks.second) ∧
      t.res.rt.minute.toNat = bcdValue (s.ports.buf.b1 &&& s.cfg.masks.minute) ∧
      t.res.rt.hour.toNat = bcdValue (s.ports.buf.b2 &&& s.cfg.masks.hour) ∧
      t.res.rt.wday = weekdayOfWire (s.ports.buf.b3 &&& s.cfg.masks.wdayNum) ∧
      t.res.rt.mday.toNat = bcdValue (s.ports.buf.b4 &&& s.cfg.masks.date) ∧
      t.res.rt.month.toNat = (bcdValue (s.ports.buf.b5 &&& s.cfg.masks.month) + 255) % 256 ∧
      t.res.rt.year.toNat = bcdValue (s.ports.buf.b6 &&& s.cfg.masks.year) + s.cfg.yearBias.toNat)

/-- R134, R138: `TIME.DEC.B` and `TIME.DEC.D`. The rules write the masks of R127 out; that the fields follow the FIELD_MASKS
registers, whatever they hold, is the model's reading, log 16. -/
def Obligations.TimeDecodeBAndD : Prop :=
  FieldMasks.table = ⟨0x7F#8, 0x7F#8, 0x3F#8, 0x3F#8, 0x1F#8, 0x07#8, 0x7F#8, 0xFF#8⟩ ∧
  ∀ s : State,
    (∃ t, exec .timeDecB s = .next t ∧ EndedPure s t ∧
      t.res.rt.second.toNat = bcdValue (s.ports.buf.b0 &&& s.cfg.masks.second) ∧
      t.res.rt.minute.toNat = bcdValue (s.ports.buf.b1 &&& s.cfg.masks.minute) ∧
      t.res.rt.hour.toNat = bcdValue (s.ports.buf.b2 &&& s.cfg.masks.hour) ∧
      t.res.rt.wday = weekdayOfWire (s.ports.buf.b3 &&& s.cfg.masks.wdayNum) ∧
      t.res.rt.mday.toNat = bcdValue (s.ports.buf.b4 &&& s.cfg.masks.date) ∧
      t.res.rt.month.toNat = (bcdValue (s.ports.buf.b5 &&& s.cfg.masks.month) + 255) % 256 ∧
      t.res.rt.year.toNat = bcdValue (s.ports.buf.b6 &&& s.cfg.masks.year) +
        (if s.ports.buf.b5.getLsbD 7 then 100 else 0)) ∧
    (∃ t, exec .timeDecD s = .next t ∧ EndedPure s t ∧
      t.res.rt.second.toNat = bcdValue (s.ports.buf.b0 &&& s.cfg.masks.second) ∧
      t.res.rt.minute.toNat = bcdValue (s.ports.buf.b1 &&& s.cfg.masks.minute) ∧
      t.res.rt.hour.toNat = bcdValue (s.ports.buf.b2 &&& s.cfg.masks.hour) ∧
      t.res.rt.mday.toNat = bcdValue (s.ports.buf.b3 &&& s.cfg.masks.date) ∧
      t.res.rt.wday = s.ports.buf.b4 &&& s.cfg.masks.wdayNum ∧
      t.res.rt.month.toNat = (bcdValue (s.ports.buf.b5 &&& s.cfg.masks.month) + 255) % 256 ∧
      t.res.rt.year.toNat = bcdValue (s.ports.buf.b6 &&& s.cfg.masks.year) +
        (if s.ports.buf.b5.getLsbD 7 then 100 else 0))

/-- R136: `TIME.DEC.C`. With no weekday bit set the weekday is any value (R141), so nothing is said of it. The rule writes
the masks of R127 out; that the fields follow the FIELD_MASKS registers, whatever they hold, is the model's reading,
log 16. -/
def Obligations.TimeDecodeC : Prop :=
  FieldMasks.table = ⟨0x7F#8, 0x7F#8, 0x3F#8, 0x3F#8, 0x1F#8, 0x07#8, 0x7F#8, 0xFF#8⟩ ∧
  ∀ s : State, ∃ t, exec .timeDecC s = .next t ∧ EndedPure s t ∧
    t.res.rt.second.toNat = bcdValue (s.ports.buf.b0 &&& s.cfg.masks.second) ∧
    t.res.rt.minute.toNat = bcdValue (s.ports.buf.b1 &&& s.cfg.masks.minute) ∧
    t.res.rt.hour.toNat = bcdValue (s.ports.buf.b2 &&& s.cfg.masks.hour) ∧
    (∀ k, k < 8 → (s.ports.buf.b3 &&& s.cfg.masks.wdayHot).getLsbD k = true →
      (∀ j, j < k → (s.ports.buf.b3 &&& s.cfg.masks.wdayHot).getLsbD j = false) → t.res.rt.wday.toNat = k) ∧
    t.res.rt.mday.toNat = bcdValue (s.ports.buf.b4 &&& s.cfg.masks.date) ∧
    t.res.rt.month.toNat = (bcdValue (s.ports.buf.b5 &&& s.cfg.masks.month) + 255) % 256 ∧
    t.res.rt.year.toNat = bcdValue (s.ports.buf.b6 &&& s.cfg.masks.year) + s.cfg.yearBias.toNat

/-- R131, R133, R137: `TIME.ENC.3W`, `TIME.ENC.A` and `TIME.ENC.C`. -/
def Obligations.TimeEncode3WAndAAndC : Prop :=
  ∀ s : State,
    (∃ t, exec .timeEnc3W s = .next t ∧ EndedPure s t ∧
      t.res.rbuf.toList = [bcdByte s.ports.t.second.toNat, bcdByte s.ports.t.minute.toNat,
        bcdByte s.ports.t.hour.toNat, bcdByte s.ports.t.mday.toNat, bcdByte (s.ports.t.month.toNat + 1),
        wireOfWeekday s.ports.t.wday, bcdByte (s.ports.t.year.toNat % 100), s.cfg.wpTerminator]) ∧
    (∃ t, exec .timeEncA s = .next t ∧ EndedPure s t ∧
      t.res.rbuf.toList.take 7 = [bcdByte s.ports.t.second.toNat, bcdByte s.ports.t.minute.toNat,
        bcdByte s.ports.t.hour.toNat, wireOfWeekday s.ports.t.wday, bcdByte s.ports.t.mday.toNat,
        bcdByte (s.ports.t.month.toNat + 1), bcdByte (s.ports.t.year.toNat % 100)]) ∧
    (∃ t, exec .timeEncC s = .next t ∧ EndedPure s t ∧
      t.res.rbuf.toList.take 7 = [bcdByte s.ports.t.second.toNat, bcdByte s.ports.t.minute.toNat,
        bcdByte s.ports.t.hour.toNat, BitVec.ofNat 8 (2 ^ s.ports.t.wday.toNat), bcdByte s.ports.t.mday.toNat,
        bcdByte (s.ports.t.month.toNat + 1), bcdByte (s.ports.t.year.toNat % 100)])

/-- R135, R139: `TIME.ENC.B` and `TIME.ENC.D`, with the century flag of R66. -/
def Obligations.TimeEncodeBAndD : Prop :=
  ∀ s : State,
    (∃ t, exec .timeEncB s = .next t ∧ EndedPure s t ∧
      t.res.rbuf.toList.take 7 = [bcdByte s.ports.t.second.toNat, bcdByte s.ports.t.minute.toNat,
        bcdByte s.ports.t.hour.toNat, wireOfWeekday s.ports.t.wday, bcdByte s.ports.t.mday.toNat,
        bcdByte (s.ports.t.month.toNat + 1) ||| (if 100 ≤ s.ports.t.year.toNat then 0x80#8 else 0x00#8),
        bcdByte (s.ports.t.year.toNat % 100)]) ∧
    (∃ t, exec .timeEncD s = .next t ∧ EndedPure s t ∧
      t.res.rbuf.toList.take 7 = [bcdByte s.ports.t.second.toNat, bcdByte s.ports.t.minute.toNat,
        bcdByte s.ports.t.hour.toNat, bcdByte s.ports.t.mday.toNat, bcdByte s.ports.t.wday.toNat,
        bcdByte (s.ports.t.month.toNat + 1) ||| (if 100 ≤ s.ports.t.year.toNat then 0x80#8 else 0x00#8),
        bcdByte (s.ports.t.year.toNat % 100)])

/-- R145: `TIME.GET` is one burst read, then the decode of `CHIP`. -/
def Obligations.TimeGetDecodesOneBurst : Prop :=
  ∀ s : State, (s.cfg.chip = .w3 → 7 ≤ s.cfg.burstRdLen ∧ s.cfg.burstRdLen ≤ 8) →
    ∃ t u evs bytes, exec .timeGet s = .next t ∧ EndedWith s t evs ∧
      (s.cfg.chip = .w3 → bytes.length = s.cfg.burstRdLen ∧
        ∃ answers, SampledAll answers bytes ∧ evs = w3ReadEvents s.cfg s.cfg.burstRd answers) ∧
      (s.cfg.chip ≠ .w3 → bytes.length = 7 ∧ ∃ st, evs = i2cReadEvents s.cfg s.cfg.timeBase st bytes) ∧
      t.res.rbuf.toList.take 7 = bytes.take 7 ∧
      exec (decOf s.cfg.chip) { s with ports := { s.ports with buf := t.res.rbuf } } = .next u ∧
      SameDecode s.cfg.chip (t.res.rbuf.b3 &&& s.cfg.masks.wdayHot) t.res.rt u.res.rt

/-- `TIME.GET` on 3W with a length register that does not bring the seven bytes of R145, or above 8: the model's choice,
log 15. A shorter burst runs and the bytes it does not bring are 0; a length outside 1..8 is refused like the burst it asks
for. -/
def Obligations.TimeGetWithOtherLengths : Prop :=
  ∀ s : State, s.cfg.chip = .w3 →
    (1 ≤ s.cfg.burstRdLen → s.cfg.burstRdLen ≤ 6 →
      ∃ t answers, exec .timeGet s = .next t ∧ t.status.ill = false ∧
        EndedWith s t (w3ReadEvents s.cfg s.cfg.burstRd answers) ∧
        SampledAll answers (t.res.rbuf.toList.take s.cfg.burstRdLen) ∧
        ∀ k, s.cfg.burstRdLen ≤ k → t.res.rbuf.toList.getD k 0 = 0x00#8) ∧
    (s.cfg.burstRdLen = 0 ∨ 8 < s.cfg.burstRdLen → ∃ t, exec .timeGet s = .next t ∧ Refused s t)

/-- R146: `TIME.SET` is the encode of `CHIP`, then one burst write. -/
def Obligations.TimeSetEncodesThenBursts : Prop :=
  ∀ s : State, ∃ t u evs, exec .timeSet s = .next t ∧ exec (encOf s.cfg.chip) s = .next u ∧
    t.res.rbuf = u.res.rbuf ∧ EndedWith s t evs ∧
    (s.cfg.chip = .w3 → evs = w3WriteEvents s.cfg s.cfg.burstWr t.res.rbuf.toList) ∧
    (s.cfg.chip ≠ .w3 → ∃ st, evs = i2cWriteEvents s.cfg s.cfg.timeBase (t.res.rbuf.toList.take 7) st)

/-- R147: decoding an encoded record in range gives it back, on every chip variant. -/
def Obligations.TimeCodecRoundTrip : Prop :=
  ∀ (v : Chip) (s : State), s.cfg.masks = FieldMasks.table →
    s.ports.t.inRange
      (if v = .b ∨ v = .d then 0 else s.cfg.yearBias.toNat)
      (if v = .b ∨ v = .d then 199 else s.cfg.yearBias.toNat + 99) →
    ∃ e d, exec (encOf v) s = .next e ∧
      exec (decOf v) { e with ports := { e.ports with buf := e.res.rbuf } } = .next d ∧ d.res.rt = s.ports.t

/-! ### Alarms and the trickle charger -/

/-- R158: `ALM4.DEC`. -/
def Obligations.Alarm4Decode : Prop :=
  ∀ s : State, ∃ t, exec .alm4Dec s = .next t ∧ EndedPure s t ∧
    (let q := s.ports.buf
     let on := s.cfg.alarmMaskActive
     let act := [q.b0.getLsbD 7 == on, q.b1.getLsbD 7 == on, q.b2.getLsbD 7 == on, q.b3.getLsbD 7 == on]
     let sel := q.b3.getLsbD s.cfg.selBit.val
     t.res.rrate =
       (if act = [false, false, false, false] then 0#3
        else if act = [true, false, false, false] then 1#3
        else if act = [true, true, false, false] then 2#3
        else if act = [true, true, true, false] then 3#3
        else if act = [true, true, true, true] then (if sel then 5#3 else 4#3)
        else 7#3) ∧
     (t.status.rateInvalid = true ↔ t.res.rrate = 7#3) ∧
     t.res.rt.second.toNat = bcdValue (q.b0 &&& 0x7F#8) ∧ t.res.rt.minute.toNat = bcdValue (q.b1 &&& 0x7F#8) ∧
     t.res.rt.hour.toNat = bcdValue (q.b2 &&& 0x3F#8) ∧
     t.res.rt.mday.toNat = (if sel then 0 else bcdValue (q.b3 &&& 0x3F#8)) ∧
     t.res.rt.wday = (if sel then weekdayOfWire (q.b3 &&& 0x07#8) else 0x00#8) ∧
     t.res.rt.month = 0 ∧ t.res.rt.year = 0)

/-- R159: `ALM4.ENC`; the levels of the eight codes of the `rate` port are those of R156, 0 for Invalid and for the unused
code. -/
def Obligations.Alarm4Encode : Prop :=
  ∀ s : State, ∃ t, exec .alm4Enc s = .next t ∧ EndedPure s t ∧
    (let level := [0, 1, 2, 3, 4, 4, 0, 0].getD s.ports.rate.toNat 0
     let bit := fun k : Nat =>
       if (if k ≤ level then s.cfg.alarmMaskActive else !s.cfg.alarmMaskActive) then 0x80#8 else 0x00#8
     t.res.rbuf.toList.take 4 =
       [bcdByte s.ports.t.second.toNat ||| bit 1, bcdByte s.ports.t.minute.toNat ||| bit 2,
        bcdByte s.ports.t.hour.toNat ||| bit 3,
        (if s.ports.rate = 5#3 then wireOfWeekday s.ports.t.wday ||| (1#8 <<< s.cfg.selBit.val)
         else bcdByte s.ports.t.mday.toNat) ||| bit 4])

/-- R163: `ALM3.DEC`. -/
def Obligations.Alarm3Decode : Prop :=
  ∀ s : State, ∃ t, exec .alm3Dec s = .next t ∧ EndedPure s t ∧
    (let q := s.ports.buf
     let on := s.cfg.alarmMaskActive
     let act := [q.b0.getLsbD 7 == on, q.b1.getLsbD 7 == on, q.b2.getLsbD 7 == on]
     let sel := q.b2.getLsbD s.cfg.selBit.val
     t.res.rrate =
       (if act = [false, false, false] then 0#3
        else if act = [true, false, false] then 2#3
        else if act = [true, true, false] then 3#3
        else if act = [true, true, true] then (if sel then 5#3 else 4#3)
        else 7#3) ∧
     (t.status.rateInvalid = true ↔ t.res.rrate = 7#3) ∧
     t.res.rt.second = 0 ∧ t.res.rt.minute.toNat = bcdValue (q.b0 &&& 0x7F#8) ∧
     t.res.rt.hour.toNat = bcdValue (q.b1 &&& 0x3F#8) ∧
     t.res.rt.mday.toNat = (if sel then 0 else bcdValue (q.b2 &&& 0x3F#8)) ∧
     t.res.rt.wday = (if sel then weekdayOfWire (q.b2 &&& 0x07#8) else 0x00#8) ∧
     t.res.rt.month = 0 ∧ t.res.rt.year = 0)

/-- R164: `ALM3.ENC`; the levels of the eight codes of the `rate` port are those of R162, 0 for Invalid and for the unused
codes. -/
def Obligations.Alarm3Encode : Prop :=
  ∀ s : State, ∃ t, exec .alm3Enc s = .next t ∧ EndedPure s t ∧
    (let level := [0, 0, 1, 2, 3, 3, 0, 0].getD s.ports.rate.toNat 0
     let bit := fun k : Nat =>
       if (if k ≤ level then s.cfg.alarmMaskActive else !s.cfg.alarmMaskActive) then 0x80#8 else 0x00#8
     t.res.rbuf.toList.take 3 =
       [bcdByte s.ports.t.minute.toNat ||| bit 1, bcdByte s.ports.t.hour.toNat ||| bit 2,
        (if s.ports.rate = 5#3 then wireOfWeekday s.ports.t.wday ||| (1#8 <<< s.cfg.selBit.val)
         else bcdByte s.ports.t.mday.toNat) ||| bit 3])

/-- R161, R165: the alarm round trips, with the selector bit of R6. -/
def Obligations.AlarmRoundTrips : Prop :=
  ∀ s : State, s.cfg.selBit = 6 → s.ports.t.inRange 0 511 →
    (s.ports.rate.toNat ≤ 5 →
      ∃ e d, exec .alm4Enc s = .next e ∧
        exec .alm4Dec { e with ports := { e.ports with buf := e.res.rbuf } } = .next d ∧
        d.res.rrate = s.ports.rate ∧ d.status.rateInvalid = false ∧
        d.res.rt = { CivilTime.zero with
          second := s.ports.t.second, minute := s.ports.t.minute, hour := s.ports.t.hour,
          mday := if s.ports.rate = 5#3 then 0 else s.ports.t.mday,
          wday := if s.ports.rate = 5#3 then s.ports.t.wday else 0 }) ∧
    (s.ports.rate.toNat ∈ [0, 2, 3, 4, 5] →
      ∃ e d, exec .alm3Enc s = .next e ∧
        exec .alm3Dec { e with ports := { e.ports with buf := e.res.rbuf } } = .next d ∧
        d.res.rrate = s.ports.rate ∧ d.status.rateInvalid = false ∧
        d.res.rt = { CivilTime.zero with
          minute := s.ports.t.minute, hour := s.ports.t.hour,
          mday := if s.ports.rate = 5#3 then 0 else s.ports.t.mday,
          wday := if s.ports.rate = 5#3 then s.ports.t.wday else 0 })

/-- R168: `ALMD.DEC`. -/
def Obligations.DayDateAlarmDecode : Prop :=
  ∀ s : State, ∃ t, exec .almdDec s = .next t ∧ EndedPure s t ∧
    (let q := s.ports.buf
     t.res.rdd.minute.map BitVec.toNat = (if q.b0.getLsbD 7 then none else some (bcdValue (q.b0 &&& 0x7F#8))) ∧
     t.res.rdd.hour.map BitVec.toNat = (if q.b1.getLsbD 7 then none else some (bcdValue (q.b1 &&& 0x3F#8))) ∧
     (q.b2.getLsbD 7 = true → t.res.rdd.mday = none ∧ t.res.rdd.wdays = none) ∧
     (q.b2.getLsbD 7 = false → s.ports.c = s.cfg.ddSelDate →
       t.res.rdd.mday.map BitVec.toNat = some (bcdValue (q.b2 &&& 0x3F#8)) ∧ t.res.rdd.wdays = none) ∧
     (q.b2.getLsbD 7 = false → s.ports.c ≠ s.cfg.ddSelDate →
       t.res.rdd.mday = none ∧ t.res.rdd.wdays = some (q.b2 &&& 0x7F#8)) ∧
     t.status.rateInvalid = false)

/-- R169: `ALMD.ENC`. -/
def Obligations.DayDateAlarmEncode : Prop :=
  ∀ s : State, ∃ t, exec .almdEnc s = .next t ∧ EndedPure s t ∧
    (let d := s.ports.dd
     let field := fun f : Option Byte => match f with
       | none => 0x80#8
       | some v => bcdByte v.toNat
     t.res.rbuf.b0 = field d.minute ∧ t.res.rbuf.b1 = field d.hour ∧
     (d.mday ≠ none → d.wdays ≠ none → t.res.rbuf.b2 = 0x80#8 ∧ t.res.rsel = s.ports.c) ∧
     (∀ v, d.mday = some v → d.wdays = none → t.res.rbuf.b2 = bcdByte v.toNat ∧ t.res.rsel = s.cfg.ddSelDate) ∧
     (∀ v, d.mday = none → d.wdays = some v → t.res.rbuf.b2 = v &&& 0x7F#8 ∧ t.res.rsel = !s.cfg.ddSelDate) ∧
     (d.mday = none → d.wdays = none → t.res.rbuf.b2 = 0x80#8 ∧ t.res.rsel = s.ports.c))

/-- R170: the day/date round trip; with both targets set both come back `Unset`. -/
def Obligations.DayDateAlarmRoundTrip : Prop :=
  ∀ s : State, s.ports.dd.inRange →
    ∃ e d, exec .almdEnc s = .next e ∧
      exec .almdDec { e with ports := { e.ports with buf := e.res.rbuf, c := e.res.rsel } } = .next d ∧
      (s.ports.dd.mday = none ∨ s.ports.dd.wdays = none → d.res.rdd = s.ports.dd) ∧
      (s.ports.dd.mday ≠ none → s.ports.dd.wdays ≠ none → d.res.rdd.mday = none ∧ d.res.rdd.wdays = none)

/-- R175: `TCS.DEC`, for every table, and with the default table of the rule. -/
def Obligations.TrickleChargerDecode : Prop :=
  ∀ s : State, ∃ t, exec .tcsDec s = .next t ∧ EndedPure s t ∧
    (s.ports.a ∉ s.cfg.tcsTable.map Prod.fst → t.res.r = 0x00#8 ∧ t.status.rateInvalid = true) ∧
    (∀ before m after, s.cfg.tcsTable = before ++ (s.ports.a, m) :: after → s.ports.a ∉ before.map Prod.fst →
      t.res.r.toNat = m.val ∧ t.status.rateInvalid = false) ∧
    (s.cfg.tcsTable = tcsDefault →
      t.res.r =
        (if s.ports.a = 0xA5#8 then 1#8 else if s.ports.a = 0xA6#8 then 2#8 else if s.ports.a = 0xA7#8 then 3#8
         else if s.ports.a = 0xA9#8 then 4#8 else if s.ports.a = 0xAA#8 then 5#8 else if s.ports.a = 0xAB#8 then 6#8
         else 0#8) ∧
      (t.status.rateInvalid = true ↔ t.res.r = 0#8))

/-! ### Accessors -/

/-- R180: `FLAG.EVAL`. -/
def Obligations.FlagEvaluation : Prop :=
  ∀ s : State, ∃ t, exec .flagEval s = .next t ∧ EndedPure s t ∧
    (let target := if s.ports.c then s.ports.b else 0x00#8
     (t.status.wrNeeded = true ↔ s.ports.a &&& s.ports.b ≠ target) ∧
     t.res.r = (s.ports.a &&& ~~~s.ports.b) ||| target ∧
     (t.status.wrNeeded = false → t.res.r = s.ports.a))

/-- R181, R183: `FLAG.SET` is one read, then one write exactly when the masked bits differ from the target. -/
def Obligations.FlagSetReadsThenWritesIfNeeded : Prop :=
  ∀ s : State, ∃ t cur rd wr, exec .flagSet s = .next t ∧ IsRegisterRead s.cfg s.ports.a cur rd ∧
    EndedWith s t (rd ++ wr) ∧
    (let target := if s.ports.c then s.ports.b else 0x00#8
     (cur &&& s.ports.b = target → t.status.wrNeeded = false ∧ wr = []) ∧
     (cur &&& s.ports.b ≠ target → t.status.wrNeeded = true ∧
       IsRegisterWrite s.cfg s.ports.a ((cur &&& ~~~s.ports.b) ||| target) wr))

/-- R182, R185, R186: `FLAG.GET`, `REG.RD` and `REG.WR`. -/
def Obligations.FlagGetAndRegisterAccess : Prop :=
  ∀ s : State,
    (∃ t cur evs, exec .flagGet s = .next t ∧ IsRegisterRead s.cfg s.ports.a cur evs ∧ EndedWith s t evs ∧
      t.res.r = (if cur &&& s.ports.b ≠ 0x00#8 then 0x01#8 else 0x00#8)) ∧
    (∃ t evs, exec .regRd s = .next t ∧ IsRegisterRead s.cfg s.ports.a t.res.r evs ∧ EndedWith s t evs) ∧
    (∃ t evs, exec .regWr s = .next t ∧ IsRegisterWrite s.cfg s.ports.a s.ports.b evs ∧ EndedWith s t evs)

/-- R187, R188, with the address of R189: `RAM.RD` and `RAM.WR`. -/
def Obligations.RamWindowAccess : Prop :=
  ∀ s : State,
    (∃ t, exec .ramRd s = .next t ∧
      (s.cfg.ramSize ≤ s.ports.a.toNat →
        EndedPure s t ∧ t.res.r = s.cfg.ramSentinel.toByte ∧ t.status.oor = true) ∧
      (s.ports.a.toNat < s.cfg.ramSize → t.status.oor = false ∧
        ∃ evs, EndedWith s t evs ∧ IsRegisterRead s.cfg
          (BitVec.ofNat 8 (s.cfg.ramBase.toNat + s.ports.a.toNat * s.cfg.ramStride.toNat)) t.res.r evs)) ∧
    (∃ t, exec .ramWr s = .next t ∧
      (s.cfg.ramSize ≤ s.ports.a.toNat → EndedPure s t ∧ t.status.oor = true) ∧
      (s.ports.a.toNat < s.cfg.ramSize → t.status.oor = false ∧
        ∃ evs, EndedWith s t evs ∧ IsRegisterWrite s.cfg
          (BitVec.ofNat 8 (s.cfg.ramBase.toNat + s.ports.a.toNat * s.cfg.ramStride.toNat)) s.ports.b evs))

/-- R193, R194: `RUN.GET` and `RUN.SET`. With a stop value other than 0 and 1 the flag `RUN.SET` wants is any boolean
(log 14). -/
def Obligations.RunningState : Prop :=
  ∀ s : State,
    (∃ t cur evs, exec .runGet s = .next t ∧ IsRegisterRead s.cfg s.cfg.runReg cur evs ∧ EndedWith s t evs ∧
      t.res.r = (if (if cur &&& s.cfg.runMask ≠ 0x00#8 then 0x01#8 else 0x00#8) ≠ s.cfg.runStopValue
        then 0x01#8 else 0x00#8)) ∧
    (∃ t cur rd wr want, RunWanted s.cfg s.ports.c want ∧ exec .runSet s = .next t ∧ IsRegisterRead s.cfg s.cfg.runReg cur rd ∧
      EndedWith s t (rd ++ wr) ∧
      (let target := if want then s.cfg.runMask else 0x00#8
       (cur &&& s.cfg.runMask = target → t.status.wrNeeded = false ∧ wr = []) ∧
       (cur &&& s.cfg.runMask ≠ target → t.status.wrNeeded = true ∧
         IsRegisterWrite s.cfg s.cfg.runReg ((cur &&& ~~~s.cfg.runMask) ||| target) wr)))

/-- R198, R199: `AGE.DEC` and `TEMP.DEC`. -/
def Obligations.AgingAndTemperature : Prop :=
  ∀ s : State,
    (∃ t, exec .ageDec s = .next t ∧ EndedPure s t ∧ t.res.r16.toInt = s.ports.a.toInt) ∧
    (∃ t, exec .tempDec s = .next t ∧ EndedPure s t ∧
      t.res.r16.toInt = s.ports.a.toInt * 256 + ((s.ports.b &&& 0xC0#8).toNat : Int))

end
end

