-- ==== Sys2Proof/Laws/State.lean ====
section
/-! SUPPORT. One lemma for each field and each update of State, so that no proof unfolds a record update. -/

namespace Sys2Proof.Machine

open Sys2Proof

variable (s : State)

/-! ### `emit` -/

@[simp] theorem emit_cfg (e : Event) : (s.emit e).cfg = s.cfg := rfl
@[simp] theorem emit_pins (e : Event) : (s.emit e).pins = s.pins.after e := rfl
@[simp] theorem emit_work (e : Event) : (s.emit e).work = s.work := rfl
@[simp] theorem emit_phase (e : Event) : (s.emit e).phase = s.phase.next := rfl
@[simp] theorem emit_busy (e : Event) : (s.emit e).busy = s.busy := rfl
@[simp] theorem emit_done (e : Event) : (s.emit e).done = s.done := rfl
@[simp] theorem emit_start (e : Event) : (s.emit e).start = s.start := rfl
@[simp] theorem emit_ports (e : Event) : (s.emit e).ports = s.ports := rfl
@[simp] theorem emit_res (e : Event) : (s.emit e).res = s.res := rfl
@[simp] theorem emit_status (e : Event) : (s.emit e).status = s.status := rfl
@[simp] theorem emit_trace (e : Event) : (s.emit e).trace = s.trace ++ [e] := rfl
@[simp] theorem emit_env (e : Event) : (s.emit e).env = s.env.after e := rfl
@[simp] theorem emit_draws (e : Event) : (s.emit e).draws = s.draws := rfl
@[simp] theorem emit_host (e : Event) : (s.emit e).host = s.host := rfl
@[simp] theorem emit_resetIn (e : Event) : (s.emit e).resetIn = s.resetIn := rfl

/-! ### `setWork` -/

@[simp] theorem setWork_cfg (w : Work) : (s.setWork w).cfg = s.cfg := rfl
@[simp] theorem setWork_pins (w : Work) : (s.setWork w).pins = s.pins := rfl
@[simp] theorem setWork_work (w : Work) : (s.setWork w).work = w := rfl
@[simp] theorem setWork_phase (w : Work) : (s.setWork w).phase = s.phase := rfl
@[simp] theorem setWork_busy (w : Work) : (s.setWork w).busy = s.busy := rfl
@[simp] theorem setWork_done (w : Work) : (s.setWork w).done = s.done := rfl
@[simp] theorem setWork_start (w : Work) : (s.setWork w).start = s.start := rfl
@[simp] theorem setWork_ports (w : Work) : (s.setWork w).ports = s.ports := rfl
@[simp] theorem setWork_res (w : Work) : (s.setWork w).res = s.res := rfl
@[simp] theorem setWork_status (w : Work) : (s.setWork w).status = s.status := rfl
@[simp] theorem setWork_trace (w : Work) : (s.setWork w).trace = s.trace := rfl
@[simp] theorem setWork_env (w : Work) : (s.setWork w).env = s.env := rfl
@[simp] theorem setWork_draws (w : Work) : (s.setWork w).draws = s.draws := rfl
@[simp] theorem setWork_host (w : Work) : (s.setWork w).host = s.host := rfl
@[simp] theorem setWork_resetIn (w : Work) : (s.setWork w).resetIn = s.resetIn := rfl

/-! ### `setStatus` -/

@[simp] theorem setStatus_cfg (st : Status) : (s.setStatus st).cfg = s.cfg := rfl
@[simp] theorem setStatus_pins (st : Status) : (s.setStatus st).pins = s.pins := rfl
@[simp] theorem setStatus_work (st : Status) : (s.setStatus st).work = s.work := rfl
@[simp] theorem setStatus_phase (st : Status) : (s.setStatus st).phase = s.phase := rfl
@[simp] theorem setStatus_busy (st : Status) : (s.setStatus st).busy = s.busy := rfl
@[simp] theorem setStatus_done (st : Status) : (s.setStatus st).done = s.done := rfl
@[simp] theorem setStatus_start (st : Status) : (s.setStatus st).start = s.start := rfl
@[simp] theorem setStatus_ports (st : Status) : (s.setStatus st).ports = s.ports := rfl
@[simp] theorem setStatus_res (st : Status) : (s.setStatus st).res = s.res := rfl
@[simp] theorem setStatus_status (st : Status) : (s.setStatus st).status = st := rfl
@[simp] theorem setStatus_trace (st : Status) : (s.setStatus st).trace = s.trace := rfl
@[simp] theorem setStatus_env (st : Status) : (s.setStatus st).env = s.env := rfl
@[simp] theorem setStatus_draws (st : Status) : (s.setStatus st).draws = s.draws := rfl
@[simp] theorem setStatus_host (st : Status) : (s.setStatus st).host = s.host := rfl
@[simp] theorem setStatus_resetIn (st : Status) : (s.setStatus st).resetIn = s.resetIn := rfl

/-! ### `accept` -/

@[simp] theorem accept_cfg : (s.accept).cfg = s.cfg := rfl
@[simp] theorem accept_pins : (s.accept).pins = s.pins := rfl
@[simp] theorem accept_work : (s.accept).work = s.work := rfl
@[simp] theorem accept_phase : (s.accept).phase = .at 0 := rfl
@[simp] theorem accept_busy : (s.accept).busy = true := rfl
@[simp] theorem accept_done : (s.accept).done = false := rfl
@[simp] theorem accept_start : (s.accept).start = false := rfl
@[simp] theorem accept_ports : (s.accept).ports = s.ports := rfl
@[simp] theorem accept_res : (s.accept).res = Results.zero := rfl
@[simp] theorem accept_status : (s.accept).status = Status.zero := rfl
@[simp] theorem accept_trace : (s.accept).trace = s.trace := rfl
@[simp] theorem accept_env : (s.accept).env = s.env := rfl
@[simp] theorem accept_draws : (s.accept).draws = s.draws := rfl
@[simp] theorem accept_host : (s.accept).host = s.host := rfl
@[simp] theorem accept_resetIn : (s.accept).resetIn = s.resetIn := rfl

/-! ### `finish` -/

@[simp] theorem finish_cfg : (s.finish).cfg = s.cfg := rfl
@[simp] theorem finish_pins : (s.finish).pins = s.pins := rfl
@[simp] theorem finish_work : (s.finish).work = s.work := rfl
@[simp] theorem finish_phase : (s.finish).phase = .idle := rfl
@[simp] theorem finish_busy : (s.finish).busy = false := rfl
@[simp] theorem finish_done : (s.finish).done = true := rfl
@[simp] theorem finish_start : (s.finish).start = s.start := rfl
@[simp] theorem finish_ports : (s.finish).ports = s.ports := rfl
@[simp] theorem finish_res : (s.finish).res = s.res := rfl
@[simp] theorem finish_status : (s.finish).status = s.status := rfl
@[simp] theorem finish_trace : (s.finish).trace = s.trace := rfl
@[simp] theorem finish_env : (s.finish).env = s.env := rfl
@[simp] theorem finish_draws : (s.finish).draws = s.draws := rfl
@[simp] theorem finish_host : (s.finish).host = s.host := rfl
@[simp] theorem finish_resetIn : (s.finish).resetIn = s.resetIn := rfl

/-! ### `refuse` -/

@[simp] theorem refuse_cfg : (s.refuse).cfg = s.cfg := rfl
@[simp] theorem refuse_pins : (s.refuse).pins = s.pins := rfl
@[simp] theorem refuse_work : (s.refuse).work = s.work := rfl
@[simp] theorem refuse_phase : (s.refuse).phase = .idle := rfl
@[simp] theorem refuse_busy : (s.refuse).busy = false := rfl
@[simp] theorem refuse_done : (s.refuse).done = true := rfl
@[simp] theorem refuse_start : (s.refuse).start = false := rfl
@[simp] theorem refuse_ports : (s.refuse).ports = s.ports := rfl
@[simp] theorem refuse_res : (s.refuse).res = Results.zero := rfl
@[simp] theorem refuse_status : (s.refuse).status = { Status.zero with ill := true } := rfl
@[simp] theorem refuse_trace : (s.refuse).trace = s.trace := rfl
@[simp] theorem refuse_env : (s.refuse).env = s.env := rfl
@[simp] theorem refuse_draws : (s.refuse).draws = s.draws := rfl
@[simp] theorem refuse_host : (s.refuse).host = s.host := rfl
@[simp] theorem refuse_resetIn : (s.refuse).resetIn = s.resetIn := rfl

/-! ### `setR` -/

@[simp] theorem setR_cfg (v : Byte) : (s.setR v).cfg = s.cfg := rfl
@[simp] theorem setR_pins (v : Byte) : (s.setR v).pins = s.pins := rfl
@[simp] theorem setR_work (v : Byte) : (s.setR v).work = s.work := rfl
@[simp] theorem setR_phase (v : Byte) : (s.setR v).phase = s.phase := rfl
@[simp] theorem setR_busy (v : Byte) : (s.setR v).busy = s.busy := rfl
@[simp] theorem setR_done (v : Byte) : (s.setR v).done = s.done := rfl
@[simp] theorem setR_start (v : Byte) : (s.setR v).start = s.start := rfl
@[simp] theorem setR_ports (v : Byte) : (s.setR v).ports = s.ports := rfl
@[simp] theorem setR_res (v : Byte) : (s.setR v).res = { s.res with r := v } := rfl
@[simp] theorem setR_status (v : Byte) : (s.setR v).status = s.status := rfl
@[simp] theorem setR_trace (v : Byte) : (s.setR v).trace = s.trace := rfl
@[simp] theorem setR_env (v : Byte) : (s.setR v).env = s.env := rfl
@[simp] theorem setR_draws (v : Byte) : (s.setR v).draws = s.draws := rfl
@[simp] theorem setR_host (v : Byte) : (s.setR v).host = s.host := rfl
@[simp] theorem setR_resetIn (v : Byte) : (s.setR v).resetIn = s.resetIn := rfl

/-! ### `setR16` -/

@[simp] theorem setR16_cfg (v : Word16) : (s.setR16 v).cfg = s.cfg := rfl
@[simp] theorem setR16_pins (v : Word16) : (s.setR16 v).pins = s.pins := rfl
@[simp] theorem setR16_work (v : Word16) : (s.setR16 v).work = s.work := rfl
@[simp] theorem setR16_phase (v : Word16) : (s.setR16 v).phase = s.phase := rfl
@[simp] theorem setR16_busy (v : Word16) : (s.setR16 v).busy = s.busy := rfl
@[simp] theorem setR16_done (v : Word16) : (s.setR16 v).done = s.done := rfl
@[simp] theorem setR16_start (v : Word16) : (s.setR16 v).start = s.start := rfl
@[simp] theorem setR16_ports (v : Word16) : (s.setR16 v).ports = s.ports := rfl
@[simp] theorem setR16_res (v : Word16) : (s.setR16 v).res = { s.res with r16 := v } := rfl
@[simp] theorem setR16_status (v : Word16) : (s.setR16 v).status = s.status := rfl
@[simp] theorem setR16_trace (v : Word16) : (s.setR16 v).trace = s.trace := rfl
@[simp] theorem setR16_env (v : Word16) : (s.setR16 v).env = s.env := rfl
@[simp] theorem setR16_draws (v : Word16) : (s.setR16 v).draws = s.draws := rfl
@[simp] theorem setR16_host (v : Word16) : (s.setR16 v).host = s.host := rfl
@[simp] theorem setR16_resetIn (v : Word16) : (s.setR16 v).resetIn = s.resetIn := rfl

/-! ### `setRbuf` -/

@[simp] theorem setRbuf_cfg (b : Buf) : (s.setRbuf b).cfg = s.cfg := rfl
@[simp] theorem setRbuf_pins (b : Buf) : (s.setRbuf b).pins = s.pins := rfl
@[simp] theorem setRbuf_work (b : Buf) : (s.setRbuf b).work = s.work := rfl
@[simp] theorem setRbuf_phase (b : Buf) : (s.setRbuf b).phase = s.phase := rfl
@[simp] theorem setRbuf_busy (b : Buf) : (s.setRbuf b).busy = s.busy := rfl
@[simp] theorem setRbuf_done (b : Buf) : (s.setRbuf b).done = s.done := rfl
@[simp] theorem setRbuf_start (b : Buf) : (s.setRbuf b).start = s.start := rfl
@[simp] theorem setRbuf_ports (b : Buf) : (s.setRbuf b).ports = s.ports := rfl
@[simp] theorem setRbuf_res (b : Buf) : (s.setRbuf b).res = { s.res with rbuf := b } := rfl
@[simp] theorem setRbuf_status (b : Buf) : (s.setRbuf b).status = s.status := rfl
@[simp] theorem setRbuf_trace (b : Buf) : (s.setRbuf b).trace = s.trace := rfl
@[simp] theorem setRbuf_env (b : Buf) : (s.setRbuf b).env = s.env := rfl
@[simp] theorem setRbuf_draws (b : Buf) : (s.setRbuf b).draws = s.draws := rfl
@[simp] theorem setRbuf_host (b : Buf) : (s.setRbuf b).host = s.host := rfl
@[simp] theorem setRbuf_resetIn (b : Buf) : (s.setRbuf b).resetIn = s.resetIn := rfl

/-! ### `setAlarm` -/

@[simp] theorem setAlarm_cfg (k : BitVec 3) (t : CivilTime) (bad : Bool) : (s.setAlarm k t bad).cfg = s.cfg := rfl
@[simp] theorem setAlarm_pins (k : BitVec 3) (t : CivilTime) (bad : Bool) : (s.setAlarm k t bad).pins = s.pins := rfl
@[simp] theorem setAlarm_work (k : BitVec 3) (t : CivilTime) (bad : Bool) : (s.setAlarm k t bad).work = s.work := rfl
@[simp] theorem setAlarm_phase (k : BitVec 3) (t : CivilTime) (bad : Bool) : (s.setAlarm k t bad).phase = s.phase := rfl
@[simp] theorem setAlarm_busy (k : BitVec 3) (t : CivilTime) (bad : Bool) : (s.setAlarm k t bad).busy = s.busy := rfl
@[simp] theorem setAlarm_done (k : BitVec 3) (t : CivilTime) (bad : Bool) : (s.setAlarm k t bad).done = s.done := rfl
@[simp] theorem setAlarm_start (k : BitVec 3) (t : CivilTime) (bad : Bool) : (s.setAlarm k t bad).start = s.start := rfl
@[simp] theorem setAlarm_ports (k : BitVec 3) (t : CivilTime) (bad : Bool) : (s.setAlarm k t bad).ports = s.ports := rfl
@[simp] theorem setAlarm_res (k : BitVec 3) (t : CivilTime) (bad : Bool) : (s.setAlarm k t bad).res = { s.res with rrate := k, rt := t } := rfl
@[simp] theorem setAlarm_status (k : BitVec 3) (t : CivilTime) (bad : Bool) : (s.setAlarm k t bad).status = { s.status with rateInvalid := bad } := rfl
@[simp] theorem setAlarm_trace (k : BitVec 3) (t : CivilTime) (bad : Bool) : (s.setAlarm k t bad).trace = s.trace := rfl
@[simp] theorem setAlarm_env (k : BitVec 3) (t : CivilTime) (bad : Bool) : (s.setAlarm k t bad).env = s.env := rfl
@[simp] theorem setAlarm_draws (k : BitVec 3) (t : CivilTime) (bad : Bool) : (s.setAlarm k t bad).draws = s.draws := rfl
@[simp] theorem setAlarm_host (k : BitVec 3) (t : CivilTime) (bad : Bool) : (s.setAlarm k t bad).host = s.host := rfl
@[simp] theorem setAlarm_resetIn (k : BitVec 3) (t : CivilTime) (bad : Bool) : (s.setAlarm k t bad).resetIn = s.resetIn := rfl

/-! ### `decodeTime` -/

@[simp] theorem decodeTime_cfg (v : Chip) (b : Buf) : (s.decodeTime v b).cfg = s.cfg := rfl
@[simp] theorem decodeTime_pins (v : Chip) (b : Buf) : (s.decodeTime v b).pins = s.pins := rfl
@[simp] theorem decodeTime_work (v : Chip) (b : Buf) : (s.decodeTime v b).work = s.work := rfl
@[simp] theorem decodeTime_phase (v : Chip) (b : Buf) : (s.decodeTime v b).phase = s.phase := rfl
@[simp] theorem decodeTime_busy (v : Chip) (b : Buf) : (s.decodeTime v b).busy = s.busy := rfl
@[simp] theorem decodeTime_done (v : Chip) (b : Buf) : (s.decodeTime v b).done = s.done := rfl
@[simp] theorem decodeTime_start (v : Chip) (b : Buf) : (s.decodeTime v b).start = s.start := rfl
@[simp] theorem decodeTime_ports (v : Chip) (b : Buf) : (s.decodeTime v b).ports = s.ports := rfl
@[simp] theorem decodeTime_res (v : Chip) (b : Buf) : (s.decodeTime v b).res = { s.res with rt := timeDecode v s.cfg (Config.freeWday s.draws) b } := rfl
@[simp] theorem decodeTime_status (v : Chip) (b : Buf) : (s.decodeTime v b).status = s.status := rfl
@[simp] theorem decodeTime_trace (v : Chip) (b : Buf) : (s.decodeTime v b).trace = s.trace := rfl
@[simp] theorem decodeTime_env (v : Chip) (b : Buf) : (s.decodeTime v b).env = s.env := rfl
@[simp] theorem decodeTime_host (v : Chip) (b : Buf) : (s.decodeTime v b).host = s.host := rfl
@[simp] theorem decodeTime_resetIn (v : Chip) (b : Buf) : (s.decodeTime v b).resetIn = s.resetIn := rfl

/-! ### `presentOpcode` -/

@[simp] theorem presentOpcode_cfg (w : Nat) : (presentOpcode w s).cfg = s.cfg := rfl
@[simp] theorem presentOpcode_pins (w : Nat) : (presentOpcode w s).pins = s.pins := rfl
@[simp] theorem presentOpcode_work (w : Nat) : (presentOpcode w s).work = s.work := rfl
@[simp] theorem presentOpcode_phase (w : Nat) : (presentOpcode w s).phase = .idle := rfl
@[simp] theorem presentOpcode_busy (w : Nat) : (presentOpcode w s).busy = false := rfl
@[simp] theorem presentOpcode_done (w : Nat) : (presentOpcode w s).done = s.done := rfl
@[simp] theorem presentOpcode_start (w : Nat) : (presentOpcode w s).start = true := rfl
@[simp] theorem presentOpcode_ports (w : Nat) : (presentOpcode w s).ports = { s.ports with op := BitVec.ofNat 8 w } := rfl
@[simp] theorem presentOpcode_res (w : Nat) : (presentOpcode w s).res = s.res := rfl
@[simp] theorem presentOpcode_status (w : Nat) : (presentOpcode w s).status = s.status := rfl
@[simp] theorem presentOpcode_trace (w : Nat) : (presentOpcode w s).trace = s.trace := rfl
@[simp] theorem presentOpcode_env (w : Nat) : (presentOpcode w s).env = s.env := rfl
@[simp] theorem presentOpcode_draws (w : Nat) : (presentOpcode w s).draws = s.draws := rfl
@[simp] theorem presentOpcode_host (w : Nat) : (presentOpcode w s).host = s.host := rfl
@[simp] theorem presentOpcode_resetIn (w : Nat) : (presentOpcode w s).resetIn = none := rfl

/-- Only a decode in the layout of chip C takes a free weekday (R141). -/
theorem decodeTime_draws (v : Chip) (b : Buf) :
    (s.decodeTime v b).draws = if v = .c then s.draws + 1 else s.draws := by
  cases v <;> rfl

end Sys2Proof.Machine
end

