-- ==== Sys2Proof/Laws/Memory.lean ====
section
/-! SUPPORT. The laws of the reference device's memory: a read after a write, and the canonical form kept. -/

namespace Sys2Proof.Machine

open Sys2Proof

/-- A byte below every listed address is unlisted. -/
theorem read_of_lt_all (m : Memory) (a : Nat) (h : m.all (fun c => decide (a < c.1)) = true) :
    m.read a = unlistedByte := by
  induction m with
  | nil => rfl
  | cons c m ih =>
    obtain ⟨k, w⟩ := c
    simp only [List.all_cons, Bool.and_eq_true, decide_eq_true_eq] at h
    have hk : k ≠ a := by omega
    simpa [Memory.read, hk] using ih h.2

theorem wf_cons (k : Nat) (w : Byte) (m : Memory) :
    Memory.wf ((k, w) :: m) = true ↔
      k < 256 ∧ w ≠ unlistedByte ∧ (∀ c ∈ m, k < c.1) ∧ Memory.wf m = true := by
  simp [Memory.wf, and_assoc]

/-- Reading what was written, at the address written and at every other address. -/
theorem read_write (m : Memory) (a : Nat) (v : Byte) (x : Nat) (h : Memory.wf m = true) :
    (m.write a v).read x = if x = a then v else m.read x := by
  induction m with
  | nil =>
    by_cases hv : v = unlistedByte <;> by_cases hx : x = a <;>
      simp [Memory.write, Memory.read, hv, hx, eq_comm]
    intro hc
    exact absurd hc.symm hx
  | cons c m ih =>
    obtain ⟨k, w⟩ := c
    obtain ⟨hk, hw, hall, hm⟩ := (wf_cons k w m).1 h
    have low : ∀ y, y ≤ k → Memory.read m y = unlistedByte := by
      intro y hy
      apply read_of_lt_all
      simp only [List.all_eq_true, decide_eq_true_eq]
      intro c hc
      have := hall c hc
      omega
    simp only [Memory.write]
    split
    · rename_i hak
      split
      · rename_i hv
        by_cases hx : x = a
        · have hkx : k ≠ x := by omega
          have hka : k ≠ a := by omega
          simp [Memory.read, hx, hka, hv, low a (by omega)]
        · simp [hx]
      · by_cases hx : x = a
        · simp [Memory.read, hx]
        · simp [Memory.read, hx, Ne.symm hx]
    · split
      · rename_i hak
        subst hak
        split
        · rename_i hv
          by_cases hx : x = a
          · subst hx
            simp [low x (le_refl _), hv]
          · simp [Memory.read, hx, Ne.symm hx]
        · by_cases hx : x = a
          · simp [Memory.read, hx]
          · simp [Memory.read, hx, Ne.symm hx]
      · rename_i h1 h2
        by_cases hx : k = x
        · subst hx
          simp [Memory.read, Ne.symm h2]
        · simp [Memory.read, hx, ih hm]

/-- A listed address stays above a bound that the memory and the written address are above. -/
theorem lt_of_mem_write (m : Memory) (a : Nat) (v : Byte) (k : Nat) (ha : k < a)
    (h : ∀ c ∈ m, k < c.1) : ∀ c ∈ m.write a v, k < c.1 := by
  induction m with
  | nil =>
    intro c hc
    simp only [Memory.write] at hc
    split at hc <;> simp_all
  | cons c m ih =>
    obtain ⟨j, w⟩ := c
    intro c hc
    simp only [Memory.write] at hc
    have hrest : ∀ c ∈ m, k < c.1 := fun c hc => h c (List.mem_cons_of_mem _ hc)
    have hj : k < j := h (j, w) List.mem_cons_self
    split at hc
    · split at hc
      · exact h c hc
      · rcases List.mem_cons.1 hc with rfl | hc
        · exact ha
        · exact h c hc
    · split at hc
      · split at hc
        · exact hrest c hc
        · rcases List.mem_cons.1 hc with rfl | hc
          · exact ha
          · exact hrest c hc
      · rcases List.mem_cons.1 hc with rfl | hc
        · exact hj
        · exact ih hrest c hc

/-- A write to an 8-bit address keeps the canonical form. -/
theorem wf_write (m : Memory) (a : Nat) (v : Byte) (ha : a < 256) (h : Memory.wf m = true) :
    Memory.wf (m.write a v) = true := by
  induction m with
  | nil =>
    simp only [Memory.write]
    split
    · rfl
    · rename_i hv
      exact (wf_cons a v []).2 ⟨ha, hv, by simp, rfl⟩
  | cons c m ih =>
    obtain ⟨k, w⟩ := c
    obtain ⟨hk, hw, hall, hm⟩ := (wf_cons k w m).1 h
    simp only [Memory.write]
    split
    · rename_i hak
      split
      · exact h
      · rename_i hv
        refine (wf_cons a v _).2 ⟨ha, hv, ?_, h⟩
        intro c hc
        rcases List.mem_cons.1 hc with rfl | hc
        · exact hak
        · exact lt_trans hak (hall c hc)
    · split
      · rename_i hak
        split
        · exact hm
        · rename_i hv
          subst hak
          exact (wf_cons a v m).2 ⟨ha, hv, hall, hm⟩
      · rename_i h1 h2
        exact (wf_cons k w _).2 ⟨hk, hw, lt_of_mem_write m a v k (by omega) hall, ih hm⟩

/-- Every primitive event keeps the canonical form of the device's memory. -/
theorem wf_after (e : Env) (ev : Event) (h : e.mem.wf = true) : (e.after ev).mem.wf = true := by
  cases ev <;> simp only [Env.after] <;> try exact h
  all_goals (split <;> try exact h)
  simp only [Env.afterWrite]
  split
  · exact h
  · exact wf_write _ _ _ (BitVec.isLt _) h

/-- A list of primitive events keeps it too. -/
theorem wf_foldl_after (evs : List Event) (e : Env) (h : e.mem.wf = true) :
    (evs.foldl Env.after e).mem.wf = true := by
  induction evs generalizing e with
  | nil => exact h
  | cons ev evs ih => exact ih _ (wf_after e ev h)

/-- The memory at reset is in canonical form. -/
theorem reset_mem_wf : State.reset.env.mem.wf = true := rfl

end Sys2Proof.Machine
end

