-- ==== Sys2Proof/Laws/Emit.lean ====
section
/-! SUPPORT. A list of primitive steps: what it does, once and for all. -/

namespace Sys2Proof.Machine

open Sys2Proof

/-- A list of primitive steps moves the lines and the device event by event, appends the events to the trace, advances the
phase, and does nothing else. -/
theorem emits_eq (evs : List Event) (s : State) :
    State.emits evs s =
      { s with
        pins := evs.foldl Pins.after s.pins
        env := evs.foldl Env.after s.env
        trace := s.trace ++ evs
        phase := evs.foldl (fun p _ => p.next) s.phase } := by
  induction evs generalizing s with
  | nil => simp [State.emits]
  | cons e es ih => simp [State.emits, ih, State.emit]

variable (evs : List Event) (s : State)

@[simp] theorem emits_nil : State.emits [] s = s := rfl
theorem emits_cons (e : Event) : State.emits (e :: evs) s = State.emits evs (s.emit e) := rfl
@[simp] theorem emits_cfg : (State.emits evs s).cfg = s.cfg := by rw [emits_eq]
@[simp] theorem emits_pins : (State.emits evs s).pins = evs.foldl Pins.after s.pins := by rw [emits_eq]
@[simp] theorem emits_work : (State.emits evs s).work = s.work := by rw [emits_eq]
@[simp] theorem emits_busy : (State.emits evs s).busy = s.busy := by rw [emits_eq]
@[simp] theorem emits_done : (State.emits evs s).done = s.done := by rw [emits_eq]
@[simp] theorem emits_start : (State.emits evs s).start = s.start := by rw [emits_eq]
@[simp] theorem emits_ports : (State.emits evs s).ports = s.ports := by rw [emits_eq]
@[simp] theorem emits_res : (State.emits evs s).res = s.res := by rw [emits_eq]
@[simp] theorem emits_status : (State.emits evs s).status = s.status := by rw [emits_eq]
@[simp] theorem emits_trace : (State.emits evs s).trace = s.trace ++ evs := by rw [emits_eq]
@[simp] theorem emits_env : (State.emits evs s).env = evs.foldl Env.after s.env := by rw [emits_eq]
@[simp] theorem emits_draws : (State.emits evs s).draws = s.draws := by rw [emits_eq]
@[simp] theorem emits_host : (State.emits evs s).host = s.host := by rw [emits_eq]
@[simp] theorem emits_resetIn : (State.emits evs s).resetIn = s.resetIn := by rw [emits_eq]

/-- Two lists of steps one after the other. -/
theorem emits_append (as bs : List Event) (s : State) :
    State.emits (as ++ bs) s = State.emits bs (State.emits as s) := by
  induction as generalizing s with
  | nil => rfl
  | cons e es ih => exact ih (s.emit e)

/-- The working registers do not meet a list of primitive steps. -/
@[simp] theorem emits_setWork (evs : List Event) (w : Work) (s : State) :
    State.emits evs (s.setWork w) = (State.emits evs s).setWork w := by
  simp [emits_eq, State.setWork]

@[simp] theorem setWork_setWork (a b : Work) (s : State) : (s.setWork a).setWork b = s.setWork b := rfl

@[simp] theorem setWork_self (s : State) : s.setWork s.work = s := rfl

theorem setWork_self' (s : State) : s.setWork ⟨s.work.sr, s.work.acc, s.work.cnt⟩ = s := rfl

/-- The pin events of R13 leave the environment alone. -/
@[simp] theorem env_after_dir (e : Env) (d : Dir) : e.after (.dir d) = e := rfl
@[simp] theorem env_after_dout (e : Env) (b : Bool) : e.after (.dout b) = e := rfl
@[simp] theorem env_after_clk (e : Env) (b : Bool) : e.after (.clk b) = e := rfl
@[simp] theorem env_after_en (e : Env) (b : Bool) : e.after (.en b) = e := rfl
@[simp] theorem env_after_delay (e : Env) (n : Nat) : e.after (.delay n) = e := rfl
@[simp] theorem env_after_request (e : Env) (a : DevAddr) (n : Nat) : e.after (.i2cRequest a n) = e := rfl

/-- An I2C event leaves the lines alone. -/
theorem pins_after_i2c (p : Pins) (e : Event) (h : isPinEvent e = false) : p.after e = p := by
  cases e <;> simp_all [isPinEvent, Pins.after]

theorem pins_foldl_i2c (evs : List Event) (p : Pins) (h : ∀ e ∈ evs, isPinEvent e = false) :
    evs.foldl Pins.after p = p := by
  induction evs with
  | nil => rfl
  | cons e es ih =>
    rw [List.foldl_cons, pins_after_i2c p e (h e List.mem_cons_self)]
    exact ih fun x hx => h x (List.mem_cons_of_mem _ hx)

/-- The reset events, which a reset appends to the trace, reach no device. -/
theorem resetEvent_eq (s : State) :
    s.resetEvent =
      { s with
        pins := Pins.idle, work := Work.zero, phase := .idle, busy := false, done := false, start := false,
        res := Results.zero, status := Status.zero, resetIn := none,
        trace := s.trace ++ [.en false, .clk false, .dir .inp] } := by
  simp [State.resetEvent, emits_eq]

end Sys2Proof.Machine
end

