-- ==== Sys2Proof/Laws/Serial.lean ====
section
/-! SUPPORT. One lemma for each operation of the serial transport: the events it performs, and the working registers it
leaves. -/

namespace Sys2Proof.Machine

open Sys2Proof

/-- A pulse is its three events (R92). -/
theorem clockPulse_eq (s : State) : s.clockPulse = State.emits (pulseEvents s.cfg.tSettle) s := rfl

/-- The events of the last `n` iterations of a send, from bit `k` on. -/
def sendTail (settle : Nat) (v : Byte) (k n : Nat) : List Event :=
  (List.range' k n).flatMap fun j => .dout (v.getLsbD j) :: pulseEvents settle

theorem shiftOutBit_eq (s : State) :
    s.shiftOutBit =
      (State.emits (.dout (s.work.sr.getLsbD 0) :: pulseEvents s.cfg.tSettle) s).setWork
        ⟨s.work.sr >>> 1, s.work.acc, s.work.cnt + 1⟩ := rfl

/-- The loop of `SER.WRB` from iteration `k` on. -/
theorem shiftOut_times (v : Byte) (n k : Nat) (s : State) (h : s.work.sr = v >>> k) :
    State.times State.shiftOutBit n s =
      (State.emits (sendTail s.cfg.tSettle v k n) s).setWork
        ⟨v >>> (k + n), s.work.acc, s.work.cnt + BitVec.ofNat 4 n⟩ := by
  induction n generalizing k s with
  | zero => simp [State.times, sendTail, ← h, setWork_self']
  | succ n ih =>
    have hbit : s.work.sr.getLsbD 0 = v.getLsbD k := by simp [h]
    rw [State.times, ih (k + 1) s.shiftOutBit (by simp [shiftOutBit_eq, h, BitVec.shiftRight_add])]
    have hk : k + 1 + n = k + (n + 1) := by omega
    have hc : s.work.cnt + 1 + BitVec.ofNat 4 n = s.work.cnt + BitVec.ofNat 4 (n + 1) := by
      rw [BitVec.add_assoc, Nat.add_comm n 1, BitVec.ofNat_add]; rfl
    simp only [shiftOutBit_eq, hbit, emits_cfg, setWork_cfg, setWork_work, sendTail, List.range'_succ,
      List.flatMap_cons, emits_append, emits_setWork, setWork_setWork, hk, hc]

/-- `SER.WRB` performs its 33 events (R91); `SR` ends empty and `CNT` at 8. -/
theorem sendByte_eq (v : Byte) (s : State) :
    s.sendByte v =
      (State.emits (sendEvents s.cfg.tSettle v) s).setWork ⟨0, s.work.acc, 8⟩ := by
  have h0 : v >>> (0 + 8) = 0#8 := by
    apply BitVec.eq_of_getLsbD_eq; intro i hi; simp
  rw [State.sendByte, shiftOut_times v 8 0 _ (by simp), h0]
  simp [sendEvents, sendTail, emits_cons, List.range_eq_range']

/-- The levels the next `n` samples will read, when nothing else asks the environment. -/
def Env.ahead (e : Env) : Nat → List Bool
  | 0 => []
  | n + 1 => e.nextLevel :: Env.ahead (e.after (.sample e.nextLevel)) n

@[simp] theorem ahead_length (e : Env) (n : Nat) : (e.ahead n).length = n := by
  induction n generalizing e with
  | zero => rfl
  | succ n ih => simp [Env.ahead, ih]

/-- What is ahead depends on the level queue and its counter alone; the levels given come first (R31). -/
theorem ahead_eq_of_levels (e : Env) (bits rest : List Bool) (h : e.levels = bits ++ rest) :
    e.ahead bits.length = bits := by
  induction bits generalizing e with
  | nil => rfl
  | cons b bits ih =>
    have hb : e.nextLevel = b := by simp [Env.nextLevel, h]
    simp only [List.length_cons, Env.ahead, hb]
    rw [ih]
    simp [Env.after, h]

/-- The samples packed into a byte above what the accumulator holds (R93). -/
def packBits (acc : Byte) (k : Nat) : List Bool → Byte
  | [] => acc
  | b :: bs => packBits (acc ||| (bitByte b <<< k)) (k + 1) bs

theorem bitByte_getLsbD (b : Bool) (i : Nat) : (bitByte b).getLsbD i = (b && decide (i = 0)) := by
  cases b <;> simp [bitByte]

theorem packBits_getLsbD (bits : List Bool) (acc : Byte) (k i : Nat) (hi : i < 8) :
    (packBits acc k bits).getLsbD i =
      (acc.getLsbD i || (decide (k ≤ i) && bits.getD (i - k) false)) := by
  induction bits generalizing acc k with
  | nil => simp [packBits]
  | cons b bs ih =>
    rw [packBits, ih]
    simp only [BitVec.getLsbD_or, BitVec.getLsbD_shiftLeft, bitByte_getLsbD]
    rcases Nat.lt_trichotomy i k with h | h | h
    · have h1 : ¬ k ≤ i := by omega
      have h2 : ¬ k + 1 ≤ i := by omega
      simp [h, h1, h2]
    · subst h
      simp [hi]
    · have h1 : k ≤ i := by omega
      have h2 : k + 1 ≤ i := by omega
      have h3 : ¬ i < k := by omega
      have h4 : i - k ≠ 0 := by omega
      have h5 : i - k = (i - (k + 1)) + 1 := by omega
      simp [h1, h2, h4]
      rw [h5]; simp

/-- Eight samples packed from an empty accumulator read with the first sample as bit 0 (R35, R93). -/
theorem sampledAs_packBits (bits : List Bool) (h : bits.length = 8) : SampledAs bits (packBits 0 0 bits) := by
  refine ⟨h, fun k hk => ?_⟩
  rw [packBits_getLsbD bits 0 0 k hk]
  simp

theorem shiftInBit_eq (s : State) :
    s.shiftInBit =
      (State.emits (.sample s.dataLevel :: pulseEvents s.cfg.tSettle) s).setWork
        ⟨s.work.sr, s.work.acc ||| (bitByte s.dataLevel <<< s.work.cnt.toNat), s.work.cnt + 1⟩ := rfl

theorem dataLevel_inp (s : State) (h : s.pins.dir = .inp) : s.dataLevel = s.env.nextLevel := by
  simp [State.dataLevel, h]

theorem pins_dir_foldl_pulse (settle : Nat) (p : Pins) (b : Bool) :
    ((Event.sample b :: pulseEvents settle).foldl Pins.after p).dir = p.dir := rfl

theorem env_foldl_samplePulse (settle : Nat) (e : Env) (b : Bool) :
    (Event.sample b :: pulseEvents settle).foldl Env.after e = e.after (.sample b) := rfl

/-- The events of a receive after its DIR event. -/
def receiveTail (settle : Nat) (bits : List Bool) : List Event :=
  bits.flatMap fun b => .sample b :: pulseEvents settle

/-- The loop of `SER.RDB` while the line is an input. -/
theorem shiftIn_times (n k : Nat) (s : State) (hd : s.pins.dir = .inp) (hc : s.work.cnt.toNat = k) (hk : k + n ≤ 8) :
    State.times State.shiftInBit n s =
      (State.emits (receiveTail s.cfg.tSettle (s.env.ahead n)) s).setWork
        ⟨s.work.sr, packBits s.work.acc k (s.env.ahead n), s.work.cnt + BitVec.ofNat 4 n⟩ := by
  induction n generalizing k s with
  | zero => simp [State.times, Env.ahead, receiveTail, packBits, setWork_self']
  | succ n ih =>
    have hlev := dataLevel_inp s hd
    have hcnt : (s.work.cnt + 1#4).toNat = k + 1 := by
      rw [BitVec.toNat_add]; simp [hc]; omega
    rw [State.times, ih (k + 1) s.shiftInBit (by simp [shiftInBit_eq, hd, pulseEvents, Pins.after])
      (by simpa [shiftInBit_eq] using hcnt) (by omega)]
    have hc' : s.work.cnt + 1 + BitVec.ofNat 4 n = s.work.cnt + BitVec.ofNat 4 (n + 1) := by
      rw [BitVec.add_assoc, Nat.add_comm n 1, BitVec.ofNat_add]; rfl
    simp only [shiftInBit_eq, hlev, emits_cfg, setWork_cfg, emits_env, setWork_env, setWork_work,
      env_foldl_samplePulse, Env.ahead, receiveTail, List.flatMap_cons, emits_append, emits_setWork, setWork_setWork,
      packBits, hc, hc']

/-- `SER.RDB` performs its 33 events, with the samples the environment has ahead (R93). -/
theorem receiveByte_eq (s : State) :
    s.receiveByte =
      (State.emits (receiveEvents s.cfg.tSettle (s.env.ahead 8)) s).setWork
        ⟨s.work.sr, packBits 0 0 (s.env.ahead 8), 8⟩ := by
  rw [State.receiveByte, shiftIn_times 8 0 _ (by simp [Pins.after]) (by simp) (by omega)]
  simp [receiveEvents, receiveTail, emits_cons]

theorem serialRead_eq (s : State) :
    s.serialRead =
      (packBits 0 0 (s.env.ahead 8),
       (State.emits (receiveEvents s.cfg.tSettle (s.env.ahead 8)) s).setWork
        ⟨s.work.sr, packBits 0 0 (s.env.ahead 8), 8⟩) := by
  simp only [State.serialRead, receiveByte_eq, setWork_work]

/-- Framing entry and exit are their events (R96, R97). -/
theorem txnBegin_eq (s : State) : s.txnBegin = State.emits (frameOpen s.cfg) s := rfl
theorem txnEnd_eq (s : State) : s.txnEnd = State.emits (frameClose s.cfg) s := rfl

/-- Bytes sent one after the other. -/
theorem sendBytes_eq (vs : List Byte) (s : State) :
    ∃ w, State.sendBytes vs s = (State.emits (vs.flatMap (sendEvents s.cfg.tSettle)) s).setWork w := by
  induction vs generalizing s with
  | nil => exact ⟨s.work, rfl⟩
  | cons v vs ih =>
    obtain ⟨w, hw⟩ := ih (s.sendByte v)
    refine ⟨w, ?_⟩
    rw [State.sendBytes, hw]
    simp only [sendByte_eq, emits_cfg, setWork_cfg, List.flatMap_cons, emits_append, emits_setWork, setWork_setWork]

/-- `n` bytes received one after the other: the events, and the bytes they read as. -/
theorem readMany_serialRead (n : Nat) (s : State) :
    ∃ answers bytes w, SampledAll answers bytes ∧ bytes.length = n ∧
      State.readMany State.serialRead n s =
        (bytes, (State.emits (answers.flatMap (receiveEvents s.cfg.tSettle)) s).setWork w) := by
  induction n generalizing s with
  | zero => exact ⟨[], [], s.work, List.Forall₂.nil, rfl, rfl⟩
  | succ n ih =>
    obtain ⟨answers, bytes, w, hall, hlen, heq⟩ := ih s.serialRead.2
    refine ⟨s.env.ahead 8 :: answers, packBits 0 0 (s.env.ahead 8) :: bytes, w,
      List.Forall₂.cons (sampledAs_packBits _ (ahead_length _ 8)) hall, by simp [hlen], ?_⟩
    simp only [State.readMany, heq]
    simp only [serialRead_eq, emits_cfg, setWork_cfg, List.flatMap_cons, emits_append, emits_setWork, setWork_setWork]

/-- Sending reaches no device input: what is ahead stays ahead. -/
theorem env_foldl_send (settle : Nat) (v : Byte) (e : Env) : (sendEvents settle v).foldl Env.after e = e := by
  simp [sendEvents, pulseEvents, List.range_succ]

theorem env_foldl_open (p : Params) (e : Env) : (frameOpen p).foldl Env.after e = e := rfl

theorem env_foldl_close (p : Params) (e : Env) : (frameClose p).foldl Env.after e = e := rfl

/-- `W3.RD` performs one framed read and returns the byte its samples read as (R100). -/
theorem w3Read_eq (code : Byte) (s : State) :
    s.w3Read code =
      (packBits 0 0 (s.env.ahead 8),
       (State.emits (w3ReadEvents s.cfg code [s.env.ahead 8]) s).setWork
         ⟨0, packBits 0 0 (s.env.ahead 8), 8⟩) := by
  simp only [State.w3Read, txnBegin_eq, txnEnd_eq, sendByte_eq, serialRead_eq, w3ReadEvents, emits_cfg, setWork_cfg,
    setWork_env, emits_env, env_foldl_send, env_foldl_open, emits_append, emits_setWork, setWork_setWork,
    setWork_work, List.flatMap_cons, List.flatMap_nil, List.append_nil]

/-- `W3.WR` performs one framed write (R101). -/
theorem w3Write_eq (code v : Byte) (s : State) :
    s.w3Write code v = (State.emits (w3WriteEvents s.cfg code [v]) s).setWork ⟨0, s.work.acc, 8⟩ := by
  simp only [State.w3Write, txnBegin_eq, txnEnd_eq, sendByte_eq, w3WriteEvents, emits_cfg, setWork_cfg, emits_append,
    emits_setWork, setWork_setWork, emits_work, setWork_work, List.flatMap_cons, List.flatMap_nil, List.append_nil]

/-- `W3.BRD` performs one framed burst read (R102). -/
theorem w3BurstRead_eq (cmd : Byte) (n : Nat) (s : State) :
    ∃ answers bytes w, SampledAll answers bytes ∧ bytes.length = n ∧
      s.w3BurstRead cmd n = (bytes, (State.emits (w3ReadEvents s.cfg cmd answers) s).setWork w) := by
  obtain ⟨answers, bytes, w, hall, hlen, heq⟩ := readMany_serialRead n (s.txnBegin.sendByte cmd)
  refine ⟨answers, bytes, w, hall, hlen, ?_⟩
  simp only [State.w3BurstRead, heq]
  simp only [txnBegin_eq, txnEnd_eq, sendByte_eq, w3ReadEvents, emits_cfg, setWork_cfg, emits_append, emits_setWork, setWork_setWork]

/-- `W3.BWR` performs one framed burst write (R103). -/
theorem w3BurstWrite_eq (cmd : Byte) (vs : List Byte) (s : State) :
    ∃ w, s.w3BurstWrite cmd vs = (State.emits (w3WriteEvents s.cfg cmd vs) s).setWork w := by
  obtain ⟨w, hw⟩ := sendBytes_eq vs (s.txnBegin.sendByte cmd)
  refine ⟨w, ?_⟩
  rw [State.w3BurstWrite, hw]
  simp only [txnBegin_eq, txnEnd_eq, sendByte_eq, w3WriteEvents, emits_cfg, setWork_cfg, emits_append, emits_setWork, setWork_setWork]

end Sys2Proof.Machine
end

