-- ==== Sys2Proof/Laws/I2c.lean ====
section
/-! SUPPORT. One lemma for each operation of the I2C sequencers and of the dispatching access: the events it performs. -/

namespace Sys2Proof.Machine

open Sys2Proof

/-- The status the end of a write transmission would return after the events `evs`. -/
def statusAfter (s : State) (evs : List Event) : Nat := (evs.foldl Env.after s.env).nextStatus

theorem i2cEnd_eq (s : State) : s.i2cEnd = (s.env.nextStatus, State.emits [.i2cEnd s.env.nextStatus] s) := rfl

/-- The bytes the next `n` reads will return, when nothing else asks the environment. -/
def Env.bytesAhead (e : Env) : Nat → List Byte
  | 0 => []
  | n + 1 => e.nextByte :: Env.bytesAhead (e.after (.i2cRead e.nextByte)) n

@[simp] theorem bytesAhead_length (e : Env) (n : Nat) : (e.bytesAhead n).length = n := by
  induction n generalizing e with
  | zero => rfl
  | succ n ih => simp [Env.bytesAhead, ih]

/-- In oracle mode the bytes given come first (R31). -/
theorem bytesAhead_eq_of_bytes (e : Env) (vs rest : List Byte) (hm : e.mode = .oracle) (h : e.bytes = vs ++ rest) :
    e.bytesAhead vs.length = vs := by
  induction vs generalizing e with
  | nil => rfl
  | cons v vs ih =>
    have hb : e.nextByte = v := by simp [Env.nextByte, hm, h]
    simp only [List.length_cons, Env.bytesAhead, hb]
    rw [ih] <;> simp [Env.after, hm, h]

/-- `n` reads in a row (R17). -/
theorem readMany_i2cReadByte (n : Nat) (s : State) :
    State.readMany State.i2cReadByte n s =
      (s.env.bytesAhead n, State.emits ((s.env.bytesAhead n).map .i2cRead) s) := by
  induction n generalizing s with
  | zero => rfl
  | succ n ih => simp only [State.readMany, ih, State.i2cReadByte, emit_env, Env.bytesAhead, List.map_cons, emits_cons]

/-- Data bytes written in a row. -/
theorem i2cWriteBytes_eq (vs : List Byte) (s : State) :
    State.i2cWriteBytes vs s = State.emits (vs.map .i2cWrite) s := by
  induction vs generalizing s with
  | nil => rfl
  | cons v vs ih => simp only [State.i2cWriteBytes, ih, List.map_cons, emits_cons]

theorem emit_eq_emits (e : Event) (s : State) : s.emit e = State.emits [e] s := rfl

/-- The address phase of a read (R111). -/
theorem i2cAddress_eq (a : Byte) (s : State) :
    ∃ st, s.i2cAddress a = State.emits [.i2cBegin s.cfg.devAddr, .i2cWrite a, .i2cEnd st] s :=
  ⟨_, rfl⟩

/-- `I2C.BRD` performs one read transmission and returns the bytes read (R113). -/
theorem i2cBurstRead_eq (a : Byte) (n : Nat) (s : State) :
    ∃ st bytes, bytes.length = n ∧
      s.i2cBurstRead a n = (bytes, State.emits (i2cReadEvents s.cfg a st bytes) s) := by
  obtain ⟨st, h⟩ := i2cAddress_eq a s
  refine ⟨st, ((s.i2cAddress a).emit (.i2cRequest s.cfg.devAddr n)).env.bytesAhead n, bytesAhead_length _ n, ?_⟩
  rw [State.i2cBurstRead, readMany_i2cReadByte, h, emit_eq_emits, i2cReadEvents]
  simp only [bytesAhead_length, ← emits_append, List.cons_append, List.nil_append]

/-- `I2C.RD` performs one read transmission of one byte (R111). -/
theorem i2cRead_eq (a : Byte) (s : State) :
    ∃ st v, s.i2cRead a = (v, State.emits (i2cReadEvents s.cfg a st [v]) s) :=
  ⟨_, _, rfl⟩

/-- `I2C.BWR` performs one write transmission (R114). -/
theorem i2cBurstWrite_eq (a : Byte) (vs : List Byte) (s : State) :
    ∃ st, s.i2cBurstWrite a vs = State.emits (i2cWriteEvents s.cfg a vs st) s := by
  refine ⟨(State.emits (vs.map .i2cWrite) (State.emits [.i2cBegin s.cfg.devAddr, .i2cWrite a] s)).env.nextStatus, ?_⟩
  rw [State.i2cBurstWrite, i2cWriteBytes_eq, i2cEnd_eq, i2cWriteEvents, emits_append, emits_append]
  rfl

/-- `I2C.WR` performs one write transmission of one byte (R112). -/
theorem i2cWrite_eq (a v : Byte) (s : State) :
    ∃ st, s.i2cWrite a v = State.emits (i2cWriteEvents s.cfg a [v] st) s :=
  ⟨_, rfl⟩

/-- The registers of an image written one by one, on an I2C chip (R116). -/
theorem writeImage_eq (img : List (Byte × Byte)) (s : State) (h : s.cfg.chip ≠ .w3) :
    ∃ evs, ImageWritten s.cfg img evs ∧ State.writeImage img s = State.emits evs s := by
  induction img generalizing s with
  | nil => exact ⟨[], rfl, rfl⟩
  | cons x img ih =>
    obtain ⟨a, v⟩ := x
    obtain ⟨st, hw⟩ := i2cWrite_eq a v s
    obtain ⟨evs, himg, heq⟩ := ih (s.i2cWrite a v) (by simp [hw, h])
    refine ⟨i2cWriteEvents s.cfg a [v] st ++ evs, ⟨_, evs, rfl, ?_, by simpa [hw] using himg⟩, ?_⟩
    · simp only [IsRegisterWrite, h, if_false]
      exact ⟨st, rfl⟩
    · rw [State.writeImage, heq, hw, emits_append]

/-- MemRead: one register read on the transport of the chip; an I2C chip's read leaves the working registers alone (R33). -/
theorem memRead_eq (a : Byte) (s : State) :
    ∃ v evs w, IsRegisterRead s.cfg a v evs ∧ (s.cfg.chip ≠ .w3 → w = s.work) ∧
      s.memRead a = (v, (State.emits evs s).setWork w) := by
  by_cases h : s.cfg.chip = .w3
  · refine ⟨packBits 0 0 (s.env.ahead 8), w3ReadEvents s.cfg (readCode a) [s.env.ahead 8],
      ⟨0, packBits 0 0 (s.env.ahead 8), 8⟩, ?_, fun hn => absurd h hn, ?_⟩
    · simp only [IsRegisterRead, h, if_true]
      exact ⟨s.env.ahead 8, sampledAs_packBits _ (ahead_length _ 8), rfl⟩
    · simp only [State.memRead, h]; exact w3Read_eq _ s
  · obtain ⟨st, v, hr⟩ := i2cRead_eq a s
    refine ⟨v, i2cReadEvents s.cfg a st [v], s.work, ?_, fun _ => rfl, ?_⟩
    · simp only [IsRegisterRead, h, if_false]
      exact ⟨st, rfl⟩
    · rw [show (State.emits (i2cReadEvents s.cfg a st [v]) s).setWork s.work = State.emits (i2cReadEvents s.cfg a st [v]) s by
        simp [emits_eq, State.setWork], ← hr]
      cases hc : s.cfg.chip <;> simp_all [State.memRead]

/-- MemWrite: one register write on the transport of the chip (R33). -/
theorem memWrite_eq (a v : Byte) (s : State) :
    ∃ evs w, IsRegisterWrite s.cfg a v evs ∧ (s.cfg.chip ≠ .w3 → w = s.work) ∧
      s.memWrite a v = (State.emits evs s).setWork w := by
  by_cases h : s.cfg.chip = .w3
  · refine ⟨w3WriteEvents s.cfg a [v], ⟨0, s.work.acc, 8⟩, ?_, fun hn => absurd h hn, ?_⟩
    · simp only [IsRegisterWrite, h, if_true]
    · simp only [State.memWrite, h]; exact w3Write_eq a v s
  · obtain ⟨st, hr⟩ := i2cWrite_eq a v s
    refine ⟨i2cWriteEvents s.cfg a [v] st, s.work, ?_, fun _ => rfl, ?_⟩
    · simp only [IsRegisterWrite, h, if_false]
      exact ⟨st, rfl⟩
    · rw [show (State.emits (i2cWriteEvents s.cfg a [v] st) s).setWork s.work =
          State.emits (i2cWriteEvents s.cfg a [v] st) s by simp [emits_eq, State.setWork], ← hr]
      cases hc : s.cfg.chip <;> simp_all [State.memWrite]

end Sys2Proof.Machine
end

