-- ==== Sys2Proof/Laws/Operate.lean ====
section
/-! SUPPORT. From the body of an operation to its end: what every meaning does, said once. -/

namespace Sys2Proof.Machine

open Sys2Proof

/-- `b` is `u` after the events `evs`; only working registers, result ports, status bits and the free-value counter may
differ otherwise. -/
structure Performs (u b : State) (evs : List Event) : Prop where
  cfg : b.cfg = u.cfg
  ports : b.ports = u.ports
  host : b.host = u.host
  resetIn : b.resetIn = u.resetIn
  start : b.start = u.start
  trace : b.trace = u.trace ++ evs
  pins : b.pins = evs.foldl Pins.after u.pins
  env : b.env = evs.foldl Env.after u.env

theorem performs_refl (u : State) : Performs u u [] := ⟨rfl, rfl, rfl, rfl, rfl, by simp, rfl, rfl⟩

theorem performs_emits (evs : List Event) (u : State) : Performs u (State.emits evs u) evs := by
  constructor <;> simp

/-- Bodies compose, and so do their events. -/
theorem performs_trans {u v w : State} {as bs : List Event} (h : Performs u v as) (k : Performs v w bs) :
    Performs u w (as ++ bs) where
  cfg := k.cfg.trans h.cfg
  ports := k.ports.trans h.ports
  host := k.host.trans h.host
  resetIn := k.resetIn.trans h.resetIn
  start := k.start.trans h.start
  trace := by rw [k.trace, h.trace, List.append_assoc]
  pins := by rw [k.pins, h.pins, List.foldl_append]
  env := by rw [k.env, h.env, List.foldl_append]

variable {u b : State} {evs : List Event}

theorem performs_setWork (h : Performs u b evs) (w : Work) : Performs u (b.setWork w) evs :=
  ⟨h.cfg, h.ports, h.host, h.resetIn, h.start, h.trace, h.pins, h.env⟩

theorem performs_setR (h : Performs u b evs) (v : Byte) : Performs u (b.setR v) evs :=
  ⟨h.cfg, h.ports, h.host, h.resetIn, h.start, h.trace, h.pins, h.env⟩

theorem performs_setRbuf (h : Performs u b evs) (v : Buf) : Performs u (b.setRbuf v) evs :=
  ⟨h.cfg, h.ports, h.host, h.resetIn, h.start, h.trace, h.pins, h.env⟩

theorem performs_setStatus (h : Performs u b evs) (st : Status) : Performs u (b.setStatus st) evs :=
  ⟨h.cfg, h.ports, h.host, h.resetIn, h.start, h.trace, h.pins, h.env⟩

theorem performs_decodeTime (h : Performs u b evs) (v : Chip) (q : Buf) : Performs u (b.decodeTime v q) evs :=
  ⟨h.cfg, h.ports, h.host, h.resetIn, h.start, h.trace, h.pins, h.env⟩

/-- An accepted operation whose body performs `evs` ends with exactly `evs`. -/
theorem endedWith_finish {s : State} (h : Performs s.accept b evs) : EndedWith s b.finish evs :=
  ⟨⟨rfl, rfl, rfl, h.start, h.cfg, h.ports, h.host, h.resetIn⟩, h.trace, h.pins, h.env⟩

/-- An accepted operation whose body performs nothing and leaves the working registers alone is pure. -/
theorem endedPure_finish {s : State} (h : Performs s.accept b []) (hw : b.work = s.work) : EndedPure s b.finish :=
  ⟨⟨rfl, rfl, rfl, h.start, h.cfg, h.ports, h.host, h.resetIn⟩, by simpa using h.trace, by simpa using h.pins, hw,
    by simpa using h.env⟩

theorem operate_true (body : State → State) (s : State) :
    s.operate true body = .next (body s.accept).finish := rfl

theorem operate_false (body : State → State) (s : State) : s.operate false body = .next s.refuse := rfl

/-- Every operation answers a next state: its body's end, or the refusal (R205). -/
theorem operate_cases (ok : Bool) (body : State → State) (s : State) :
    (ok = true ∧ s.operate ok body = .next (body s.accept).finish) ∨
    (ok = false ∧ s.operate ok body = .next s.refuse) := by
  cases ok
  · exact .inr ⟨rfl, rfl⟩
  · exact .inl ⟨rfl, rfl⟩

/-- What a refusal leaves (R75). -/
theorem refused_refuse (s : State) : Refused s s.refuse :=
  ⟨⟨⟨rfl, rfl, rfl, rfl, rfl, rfl, rfl, rfl⟩, rfl, rfl, rfl, rfl⟩, rfl, rfl, rfl⟩

/-- A refusal ends with no event. -/
theorem endedWith_refuse (s : State) : EndedWith s s.refuse [] :=
  ⟨(refused_refuse s).1.1, by simp, rfl, rfl⟩

/-! ### The bodies that reach the device -/

/-- `b` is `u` after the events `evs` and nothing but working registers may differ otherwise. -/
structure Transports (u b : State) (evs : List Event) : Prop extends Performs u b evs where
  res : b.res = u.res
  status : b.status = u.status
  draws : b.draws = u.draws

theorem transports_emits (evs : List Event) (w : Work) (u : State) :
    Transports u ((State.emits evs u).setWork w) evs := by
  refine ⟨⟨?_, ?_, ?_, ?_, ?_, ?_, ?_, ?_⟩, ?_, ?_, ?_⟩ <;> simp

theorem transports_emits' (evs : List Event) (u : State) : Transports u (State.emits evs u) evs := by
  refine ⟨⟨?_, ?_, ?_, ?_, ?_, ?_, ?_, ?_⟩, ?_, ?_, ?_⟩ <;> simp

/-- Transports compose, and so do their events. -/
theorem transports_trans {u v w : State} {as bs : List Event} (h : Transports u v as) (k : Transports v w bs) :
    Transports u w (as ++ bs) :=
  ⟨performs_trans h.toPerforms k.toPerforms, k.res.trans h.res, k.status.trans h.status, k.draws.trans h.draws⟩

theorem transports_memRead (a : Byte) (u : State) :
    ∃ evs, IsRegisterRead u.cfg a (u.memRead a).1 evs ∧ Transports u (u.memRead a).2 evs ∧
      (u.cfg.chip ≠ .w3 → (u.memRead a).2.work = u.work) := by
  obtain ⟨v, evs, w, hv, hw, heq⟩ := memRead_eq a u
  rw [heq]
  exact ⟨evs, hv, transports_emits evs w u, hw⟩

theorem transports_memWrite (a v : Byte) (u : State) :
    ∃ evs, IsRegisterWrite u.cfg a v evs ∧ Transports u (u.memWrite a v) evs ∧
      (u.cfg.chip ≠ .w3 → (u.memWrite a v).work = u.work) := by
  obtain ⟨evs, w, hv, hw, heq⟩ := memWrite_eq a v u
  rw [heq]
  exact ⟨evs, hv, transports_emits evs w u, hw⟩

/-- `FLAG.SET` is one read and, exactly when the masked bits differ from the target, one write (R181). -/
theorem performs_flagSet (reg mask : Byte) (want : Bool) (u : State) :
    ∃ cur rd wr, IsRegisterRead u.cfg reg cur rd ∧ Performs u (u.flagSet reg mask want) (rd ++ wr) ∧
      (u.flagSet reg mask want).status = { u.status with wrNeeded := flagDiffers cur mask want } ∧
      (u.flagSet reg mask want).res = u.res ∧ (u.flagSet reg mask want).draws = u.draws ∧
      (flagDiffers cur mask want = true → IsRegisterWrite u.cfg reg (flagUpdate cur mask want) wr) ∧
      (flagDiffers cur mask want = false → wr = []) ∧
      (u.cfg.chip ≠ .w3 → (u.flagSet reg mask want).work = u.work) := by
  obtain ⟨rd, hv, hp, hwk⟩ := transports_memRead reg u
  by_cases hd : flagDiffers (u.memRead reg).1 mask want = true
  · obtain ⟨wr, hwr, hq, hwk'⟩ := transports_memWrite reg (flagUpdate (u.memRead reg).1 mask want) (u.memRead reg).2
    refine ⟨(u.memRead reg).1, rd, wr, hv, ?_⟩
    simp only [State.flagSet, hd, if_true]
    refine ⟨performs_setStatus (performs_trans hp.toPerforms hq.toPerforms) _, ?_, ?_, ?_,
      fun _ => by rwa [hp.cfg] at hwr, fun hf => by simp at hf, fun hn => ?_⟩
    · rw [setStatus_status, hq.status, hp.status]
    · rw [setStatus_res, hq.res, hp.res]
    · rw [setStatus_draws, hq.draws, hp.draws]
    · rw [setStatus_work, hwk' (by rwa [hp.cfg]), hwk hn]
  · rw [Bool.not_eq_true] at hd
    refine ⟨(u.memRead reg).1, rd, [], hv, ?_⟩
    simp only [State.flagSet, hd, List.append_nil]
    refine ⟨performs_setStatus hp.toPerforms _, ?_, ?_, ?_, fun hf => by simp at hf, fun _ => trivial, fun hn => ?_⟩
    · simp [hp.status]
    · simp [hp.res]
    · simp [hp.draws]
    · simpa using hwk hn

/-- The burst of `TIME.GET` (R145). -/
theorem transports_timeBurstRead (u : State) :
    ∃ evs, Transports u u.timeBurstRead.2 evs ∧
      (u.cfg.chip = .w3 → u.timeBurstRead.1.length = u.cfg.burstRdLen ∧
        ∃ answers, SampledAll answers u.timeBurstRead.1 ∧ evs = w3ReadEvents u.cfg u.cfg.burstRd answers) ∧
      (u.cfg.chip ≠ .w3 → u.timeBurstRead.1.length = 7 ∧ u.timeBurstRead.2.work = u.work ∧
        ∃ st, evs = i2cReadEvents u.cfg u.cfg.timeBase st u.timeBurstRead.1) := by
  by_cases h : u.cfg.chip = .w3
  · obtain ⟨answers, bytes, w, hs, hl, heq⟩ := w3BurstRead_eq u.cfg.burstRd u.cfg.burstRdLen u
    have hb : u.timeBurstRead = (bytes, (State.emits (w3ReadEvents u.cfg u.cfg.burstRd answers) u).setWork w) := by
      simp only [State.timeBurstRead, h]; exact heq
    rw [hb]
    exact ⟨_, transports_emits _ w u, fun _ => ⟨hl, answers, hs, rfl⟩, fun hn => absurd h hn⟩
  · obtain ⟨st, bytes, hl, heq⟩ := i2cBurstRead_eq u.cfg.timeBase 7 u
    have hb : u.timeBurstRead = (bytes, State.emits (i2cReadEvents u.cfg u.cfg.timeBase st bytes) u) := by
      cases hc : u.cfg.chip <;> simp_all [State.timeBurstRead]
    rw [hb]
    exact ⟨_, transports_emits' _ u, fun hn => absurd hn h, fun _ => ⟨hl, emits_work _ _, st, rfl⟩⟩

/-- The burst of `TIME.SET` (R146). -/
theorem transports_timeBurstWrite (q : Buf) (u : State) :
    ∃ evs, Transports u (u.timeBurstWrite q) evs ∧
      (u.cfg.chip = .w3 → evs = w3WriteEvents u.cfg u.cfg.burstWr (q.first 8)) ∧
      (u.cfg.chip ≠ .w3 → (u.timeBurstWrite q).work = u.work ∧
        ∃ st, evs = i2cWriteEvents u.cfg u.cfg.timeBase (q.first 7) st) := by
  by_cases h : u.cfg.chip = .w3
  · obtain ⟨w, heq⟩ := w3BurstWrite_eq u.cfg.burstWr (q.first 8) u
    have hb : u.timeBurstWrite q = (State.emits (w3WriteEvents u.cfg u.cfg.burstWr (q.first 8)) u).setWork w := by
      simp only [State.timeBurstWrite, h]; exact heq
    rw [hb]
    exact ⟨_, transports_emits _ w u, fun _ => rfl, fun hn => absurd h hn⟩
  · obtain ⟨st, heq⟩ := i2cBurstWrite_eq u.cfg.timeBase (q.first 7) u
    have hb : u.timeBurstWrite q = State.emits (i2cWriteEvents u.cfg u.cfg.timeBase (q.first 7) st) u := by
      cases hc : u.cfg.chip <;> simp_all [State.timeBurstWrite]
    rw [hb]
    exact ⟨_, transports_emits' _ u, fun hn => absurd hn h, fun _ => ⟨emits_work _ _, st, rfl⟩⟩

/-- `I2C.PROBE`'s voltage-low check on an I2C chip (R116). -/
theorem transports_voltageLowCheck (u : State) (h : u.cfg.chip ≠ .w3) :
    ∃ st v writes, Transports u u.voltageLowCheck.2 (i2cReadEvents u.cfg u.cfg.regVl st [v] ++ writes) ∧
      u.voltageLowCheck.2.work = u.work ∧
      (anyBitSet v u.cfg.vlMask = true → u.voltageLowCheck.1 = 1 ∧ ImageWritten u.cfg u.cfg.initImage writes) ∧
      (anyBitSet v u.cfg.vlMask = false → u.voltageLowCheck.1 = 0 ∧ writes = []) := by
  obtain ⟨st, v, hr⟩ := i2cRead_eq u.cfg.regVl u
  by_cases hv : anyBitSet v u.cfg.vlMask = true
  · obtain ⟨writes, himg, hw⟩ := writeImage_eq u.cfg.initImage
      (State.emits (i2cReadEvents u.cfg u.cfg.regVl st [v]) u) (by simpa using h)
    refine ⟨st, v, writes, ?_⟩
    simp only [State.voltageLowCheck, hr, hv, if_true, hw]
    refine ⟨?_, by simp, fun _ => ⟨trivial, by simpa using himg⟩, fun hf => by simp at hf⟩
    exact transports_trans (transports_emits' _ u) (transports_emits' _ _)
  · rw [Bool.not_eq_true] at hv
    refine ⟨st, v, [], ?_⟩
    simp only [State.voltageLowCheck, hr, hv, Bool.false_eq_true, if_false, List.append_nil]
    exact ⟨transports_emits' _ u, by simp, fun hf => hf.elim, fun _ => ⟨trivial, trivial⟩⟩

end Sys2Proof.Machine
end

