-- ==== Sys2Proof/Laws/Exec.lean ====
section
/-! SUPPORT. Each meaning as one `operate`: when the block accepts the operation, and its body. Rewrite with these instead of
unfolding a meaning. -/

namespace Sys2Proof.Machine

open Sys2Proof

variable (s : State)

theorem exec_bcdDec :
    exec .bcdDec s =
    s.operate true fun u => u.setR (bcdDecode u.ports.a) := rfl

theorem exec_bcdEnc :
    exec .bcdEnc s =
    s.operate true fun u => u.setR (bcdEncode u.ports.a) := rfl

theorem exec_serWrb :
    exec .serWrb s =
    s.operate (hasSerial s.cfg.chip) fun u => u.sendByte u.ports.a := rfl

theorem exec_serRdb :
    exec .serRdb s =
    s.operate (hasSerial s.cfg.chip) fun u =>
      let r := u.serialRead
      r.2.setR r.1 := rfl

theorem exec_txnBegin :
    exec .txnBegin s =
    s.operate (hasSerial s.cfg.chip) fun u => u.txnBegin := rfl

theorem exec_txnEnd :
    exec .txnEnd s =
    s.operate (hasSerial s.cfg.chip) fun u => u.txnEnd := rfl

theorem exec_w3Rd :
    exec .w3Rd s =
    s.operate (hasSerial s.cfg.chip) fun u =>
      let r := u.w3Read u.ports.a
      r.2.setR r.1 := rfl

theorem exec_w3Wr :
    exec .w3Wr s =
    s.operate (hasSerial s.cfg.chip) fun u => u.w3Write u.ports.a u.ports.b := rfl

theorem exec_w3Brd :
    exec .w3Brd s =
    s.operate (hasSerial s.cfg.chip && burstLengthOk s.ports.n.toNat) fun u =>
      let r := u.w3BurstRead u.ports.a u.ports.n.toNat
      r.2.setRbuf (Buf.ofList r.1) := rfl

theorem exec_w3Bwr :
    exec .w3Bwr s =
    s.operate (hasSerial s.cfg.chip && burstLengthOk s.ports.n.toNat) fun u =>
      u.w3BurstWrite u.ports.a (u.ports.buf.first u.ports.n.toNat) := rfl

theorem exec_i2cRd :
    exec .i2cRd s =
    s.operate (hasI2c s.cfg.chip) fun u =>
      let r := u.i2cRead u.ports.a
      r.2.setR r.1 := rfl

theorem exec_i2cWr :
    exec .i2cWr s =
    s.operate (hasI2c s.cfg.chip) fun u => u.i2cWrite u.ports.a u.ports.b := rfl

theorem exec_i2cBrd :
    exec .i2cBrd s =
    s.operate (hasI2c s.cfg.chip && burstLengthOk s.ports.n.toNat) fun u =>
      let r := u.i2cBurstRead u.ports.a u.ports.n.toNat
      r.2.setRbuf (Buf.ofList r.1) := rfl

theorem exec_i2cBwr :
    exec .i2cBwr s =
    s.operate (hasI2c s.cfg.chip && burstLengthOk s.ports.n.toNat) fun u =>
      u.i2cBurstWrite u.ports.a (u.ports.buf.first u.ports.n.toNat) := rfl

theorem exec_i2cProbe :
    exec .i2cProbe s =
    s.operate (hasI2c s.cfg.chip) fun u =>
      let e := (u.emit (.i2cBegin u.cfg.devAddr)).i2cEnd
      let present := acknowledged e.1
      let t := e.2.setStatus { e.2.status with present := present }
      if present && checksVoltage u.cfg.chip then
        let v := t.voltageLowCheck
        v.2.setR v.1
      else t := rfl

theorem exec_timeDec3W :
    exec .timeDec3W s =
    s.operate true fun u => u.decodeTime .w3 u.ports.buf := rfl

theorem exec_timeDecA :
    exec .timeDecA s =
    s.operate true fun u => u.decodeTime .a u.ports.buf := rfl

theorem exec_timeDecB :
    exec .timeDecB s =
    s.operate true fun u => u.decodeTime .b u.ports.buf := rfl

theorem exec_timeDecC :
    exec .timeDecC s =
    s.operate true fun u => u.decodeTime .c u.ports.buf := rfl

theorem exec_timeDecD :
    exec .timeDecD s =
    s.operate true fun u => u.decodeTime .d u.ports.buf := rfl

theorem exec_timeGet :
    exec .timeGet s =
    s.operate (timeBurstOk s.cfg) fun u =>
      let r := u.timeBurstRead
      (r.2.setRbuf (Buf.ofList r.1)).decodeTime u.cfg.chip (Buf.ofList r.1) := rfl

theorem exec_timeSet :
    exec .timeSet s =
    s.operate true fun u =>
      (u.setRbuf (timeEncode u.cfg.chip u.cfg u.ports.t)).timeBurstWrite (timeEncode u.cfg.chip u.cfg u.ports.t) := rfl

theorem exec_timeEnc3W :
    exec .timeEnc3W s =
    s.operate true fun u => u.setRbuf (timeEncode3W u.cfg u.ports.t) := rfl

theorem exec_timeEncA :
    exec .timeEncA s =
    s.operate true fun u => u.setRbuf (timeEncodeA u.ports.t) := rfl

theorem exec_timeEncB :
    exec .timeEncB s =
    s.operate true fun u => u.setRbuf (timeEncodeB u.ports.t) := rfl

theorem exec_timeEncC :
    exec .timeEncC s =
    s.operate true fun u => u.setRbuf (timeEncodeC u.ports.t) := rfl

theorem exec_timeEncD :
    exec .timeEncD s =
    s.operate true fun u => u.setRbuf (timeEncodeD u.ports.t) := rfl

theorem exec_alm4Dec :
    exec .alm4Dec s =
    s.operate true fun u =>
      let q := u.ports.buf
      let rate := alm4Rate u.cfg q.b0 q.b1 q.b2 q.b3
      u.setAlarm rate.code (alarmTime u.cfg (decField q.b0 0x7F#8) q.b1 q.b2 q.b3) (rate == .invalid) := rfl

theorem exec_alm4Enc :
    exec .alm4Enc s =
    s.operate true fun u => u.setRbuf (Buf.ofList (alm4Encode u.cfg (rate4OfCode u.ports.rate) u.ports.t)) := rfl

theorem exec_alm3Dec :
    exec .alm3Dec s =
    s.operate true fun u =>
      let q := u.ports.buf
      let rate := alm3Rate u.cfg q.b0 q.b1 q.b2
      u.setAlarm rate.code (alarmTime u.cfg 0 q.b0 q.b1 q.b2) (rate == .invalid) := rfl

theorem exec_alm3Enc :
    exec .alm3Enc s =
    s.operate true fun u => u.setRbuf (Buf.ofList (alm3Encode u.cfg (rate3OfCode u.ports.rate) u.ports.t)) := rfl

theorem exec_almdDec :
    exec .almdDec s =
    s.operate true fun u =>
      { u with res := { u.res with
          rdd := ddDecode u.cfg u.ports.buf.b0 u.ports.buf.b1 u.ports.buf.b2 u.ports.c } } := rfl

theorem exec_almdEnc :
    exec .almdEnc s =
    s.operate true fun u =>
      { u with res := { u.res with
          rbuf := Buf.ofList (ddEncode u.cfg u.ports.dd u.ports.c)
          rsel := (ddDay u.cfg u.ports.dd u.ports.c).2 } } := rfl

theorem exec_tcsDec :
    exec .tcsDec s =
    s.operate true fun u =>
      (u.setR (tcsMode u.cfg u.ports.a)).setStatus { u.status with rateInvalid := tcsUnknown u.cfg u.ports.a } := rfl

theorem exec_flagEval :
    exec .flagEval s =
    s.operate true fun u =>
      (u.setR (flagUpdate u.ports.a u.ports.b u.ports.c)).setStatus
        { u.status with wrNeeded := flagDiffers u.ports.a u.ports.b u.ports.c } := rfl

theorem exec_flagSet :
    exec .flagSet s =
    s.operate true fun u => u.flagSet u.ports.a u.ports.b u.ports.c := rfl

theorem exec_flagGet :
    exec .flagGet s =
    s.operate true fun u =>
      let f := u.flagGet u.ports.a u.ports.b
      f.2.setR (bitByte f.1) := rfl

theorem exec_ramRd :
    exec .ramRd s =
    s.operate true fun u =>
      if ramOutOfRange u.cfg u.ports.a then
        (u.setR u.cfg.ramSentinel.toByte).setStatus { u.status with oor := true }
      else
        let v := u.memRead (ramAddr u.cfg u.ports.a)
        v.2.setR v.1 := rfl

theorem exec_ramWr :
    exec .ramWr s =
    s.operate true fun u =>
      if ramOutOfRange u.cfg u.ports.a then u.setStatus { u.status with oor := true }
      else u.memWrite (ramAddr u.cfg u.ports.a) u.ports.b := rfl

theorem exec_regRd :
    exec .regRd s =
    s.operate true fun u =>
      let v := u.memRead u.ports.a
      v.2.setR v.1 := rfl

theorem exec_regWr :
    exec .regWr s =
    s.operate true fun u => u.memWrite u.ports.a u.ports.b := rfl

theorem exec_runGet :
    exec .runGet s =
    s.operate true fun u =>
      let f := u.flagGet u.cfg.runReg u.cfg.runMask
      f.2.setR (bitByte (bitByte f.1 != u.cfg.runStopValue)) := rfl

theorem exec_runSet :
    exec .runSet s =
    s.operate true fun u => u.flagSet u.cfg.runReg u.cfg.runMask (runWanted u.cfg u.ports.c) := rfl

theorem exec_ageDec :
    exec .ageDec s =
    s.operate true fun u => u.setR16 (agingDecode u.ports.a) := rfl

theorem exec_tempDec :
    exec .tempDec s =
    s.operate true fun u => u.setR16 (temperatureDecode u.ports.a u.ports.b) := rfl

end Sys2Proof.Machine
end

