-- ==== Sys2Proof/Laws/Answers.lean ====
section
/-! SUPPORT. What a read returns when the device's next answers are given, and which answers it uses up (R31). -/

namespace Sys2Proof.Machine

open Sys2Proof

/-! ### The 3-wire lines -/

/-- Eight samples read as one byte only. -/
theorem packBits_of_sampledAs {bits : List Bool} {v : Byte} (h : SampledAs bits v) : packBits 0 0 bits = v := by
  apply BitVec.eq_of_getLsbD_eq
  intro k hk
  rw [(sampledAs_packBits bits h.1).2 k hk, h.2 k hk]

/-- A received byte uses as many levels up as it has samples. -/
theorem levels_foldl_receive (settle : Nat) (bits : List Bool) (e : Env) :
    ((receiveEvents settle bits).foldl Env.after e).levels = e.levels.drop bits.length := by
  simp only [receiveEvents, List.foldl_cons, env_after_dir]
  induction bits generalizing e with
  | nil => rfl
  | cons b bits ih =>
    rw [List.flatMap_cons, List.foldl_append, ih]
    simp [pulseEvents, Env.after]

/-- Writing on the 3-wire lines uses no level up. -/
theorem env_foldl_w3Write (p : Params) (cmd : Byte) (vs : List Byte) (e : Env) :
    (w3WriteEvents p cmd vs).foldl Env.after e = e := by
  have hs : ∀ vs : List Byte, (vs.flatMap (sendEvents p.tSettle)).foldl Env.after e = e := by
    intro vs
    induction vs with
    | nil => rfl
    | cons v vs ih => rw [List.flatMap_cons, List.foldl_append, env_foldl_send, ih]
  simp only [w3WriteEvents, List.foldl_append, env_foldl_open, env_foldl_send, hs, env_foldl_close]

/-- `SER.RDB` returns the byte the next eight levels read as, and uses them up. -/
theorem serialRead_given {s : State} {given rest : List Bool} {v : Byte} (h : s.env.levels = given ++ rest)
    (hv : SampledAs given v) : s.serialRead.1 = v ∧ s.serialRead.2.env.levels = rest := by
  have ha : s.env.ahead 8 = given := by rw [← hv.1]; exact ahead_eq_of_levels s.env given rest h
  rw [serialRead_eq, ha]
  refine ⟨packBits_of_sampledAs hv, ?_⟩
  simp [levels_foldl_receive, h]

/-- `W3.RD` returns the byte the next eight levels read as, and uses them up. -/
theorem w3Read_given {s : State} {given rest : List Bool} {v : Byte} (code : Byte) (h : s.env.levels = given ++ rest)
    (hv : SampledAs given v) : (s.w3Read code).1 = v ∧ (s.w3Read code).2.env.levels = rest := by
  have hb : (s.txnBegin.sendByte code).env.levels = given ++ rest := by
    rw [txnBegin_eq, sendByte_eq, setWork_env, emits_env, env_foldl_send, emits_env, env_foldl_open, h]
  obtain ⟨h1, h2⟩ := serialRead_given hb hv
  refine ⟨h1, ?_⟩
  show (State.txnEnd _).env.levels = rest
  rw [txnEnd_eq, emits_env, env_foldl_close, h2]

/-- Several bytes received in a row. -/
theorem readMany_serialRead_given {answers : List (List Bool)} {bytes : List Byte} {rest : List Bool} (s : State)
    (h : s.env.levels = answers.flatten ++ rest) (hv : SampledAll answers bytes) :
    (State.readMany State.serialRead bytes.length s).1 = bytes ∧
    (State.readMany State.serialRead bytes.length s).2.env.levels = rest := by
  induction hv generalizing s with
  | nil => exact ⟨rfl, h⟩
  | cons ha _ ih =>
    rw [List.flatten_cons, List.append_assoc] at h
    obtain ⟨h1, h2⟩ := serialRead_given h ha
    obtain ⟨h3, h4⟩ := ih s.serialRead.2 h2
    exact ⟨by simp only [List.length_cons, State.readMany, h1, h3], h4⟩

/-- `W3.BRD` returns the bytes the next levels read as, and uses them up. -/
theorem w3BurstRead_given {answers : List (List Bool)} {bytes : List Byte} {rest : List Bool} (cmd : Byte) (s : State)
    (h : s.env.levels = answers.flatten ++ rest) (hv : SampledAll answers bytes) :
    (s.w3BurstRead cmd bytes.length).1 = bytes ∧ (s.w3BurstRead cmd bytes.length).2.env.levels = rest := by
  have hb : (s.txnBegin.sendByte cmd).env.levels = answers.flatten ++ rest := by
    rw [txnBegin_eq, sendByte_eq, setWork_env, emits_env, env_foldl_send, emits_env, env_foldl_open, h]
  obtain ⟨h1, h2⟩ := readMany_serialRead_given _ hb hv
  refine ⟨h1, ?_⟩
  show (State.txnEnd _).env.levels = rest
  rw [txnEnd_eq, emits_env, env_foldl_close, h2]

/-! ### The I2C bus, in oracle mode -/

/-- In oracle mode an I2C write asks for one status and nothing else. -/
theorem env_foldl_i2cWrite (p : Params) (a : Byte) (vs : List Byte) (st : Nat) (e : Env) (hm : e.mode = .oracle) :
    (i2cWriteEvents p a vs st).foldl Env.after e = { e with statuses := e.statuses.tail, asked := e.asked + 1 } := by
  have hs : ∀ vs : List Byte, (vs.map Event.i2cWrite).foldl Env.after e = e := by
    intro vs
    induction vs with
    | nil => rfl
    | cons v vs ih => simpa [Env.after, hm] using ih
  simp only [i2cWriteEvents, List.foldl_append, List.foldl_cons, List.foldl_nil]
  simp [Env.after, hm, hs]

/-- The address phase of a read leaves the bytes to come alone and asks for one status. -/
theorem i2cAddress_env (a : Byte) (s : State) (hm : s.env.mode = .oracle) :
    (s.i2cAddress a).env = { s.env with statuses := s.env.statuses.tail, asked := s.env.asked + 1 } := by
  simp [State.i2cAddress, State.i2cEnd, State.emit, Env.after, hm]

/-- `I2C.BRD` returns the next bytes, and uses them up. -/
theorem i2cBurstRead_given {given rest : List Byte} (a : Byte) (s : State) (hm : s.env.mode = .oracle)
    (h : s.env.bytes = given ++ rest) :
    (s.i2cBurstRead a given.length).1 = given ∧ (s.i2cBurstRead a given.length).2.env.bytes = rest := by
  have hb : ∀ (vs : List Byte) (e : Env), e.mode = .oracle →
      ((vs.map Event.i2cRead).foldl Env.after e).bytes = e.bytes.drop vs.length := by
    intro vs
    induction vs with
    | nil => intro e _; rfl
    | cons v vs ih => intro e hm; rw [List.map_cons, List.foldl_cons, ih] <;> simp [Env.after, hm]
  have h1 : ((s.i2cAddress a).emit (.i2cRequest s.cfg.devAddr given.length)).env.mode = .oracle := by
    rw [emit_env, env_after_request, i2cAddress_env a s hm]; exact hm
  have h2 : ((s.i2cAddress a).emit (.i2cRequest s.cfg.devAddr given.length)).env.bytes = given ++ rest := by
    rw [emit_env, env_after_request, i2cAddress_env a s hm]; exact h
  rw [State.i2cBurstRead, readMany_i2cReadByte, bytesAhead_eq_of_bytes _ given rest h1 h2]
  refine ⟨rfl, ?_⟩
  rw [emits_env, hb given _ h1, h2, List.drop_left]

/-- `I2C.RD` returns the next byte, and uses it and one status up. -/
theorem i2cRead_given {v : Byte} {rest : List Byte} (a : Byte) (s : State) (hm : s.env.mode = .oracle)
    (h : s.env.bytes = v :: rest) :
    (s.i2cRead a).1 = v ∧ (s.i2cRead a).2.env =
      { s.env with statuses := s.env.statuses.tail, bytes := rest, asked := s.env.asked + 2 } := by
  constructor <;> simp [State.i2cRead, State.i2cReadByte, i2cAddress_env a s hm, Env.nextByte, Env.after, hm, h]

/-- The writes of an image ask for one status each. -/
theorem writeImage_env (img : List (Byte × Byte)) (s : State) (hm : s.env.mode = .oracle) :
    (State.writeImage img s).env =
      { s.env with statuses := s.env.statuses.drop img.length, asked := s.env.asked + img.length } := by
  induction img generalizing s with
  | nil => simp [State.writeImage]
  | cons x img ih =>
    obtain ⟨a, v⟩ := x
    obtain ⟨st, hw⟩ := i2cWrite_eq a v s
    have he : (s.i2cWrite a v).env = { s.env with statuses := s.env.statuses.tail, asked := s.env.asked + 1 } := by
      rw [hw, emits_env, env_foldl_i2cWrite _ _ _ _ _ hm]
    rw [State.writeImage, ih _ (by rw [he]; exact hm), he]
    simp [Nat.add_assoc, Nat.add_comm 1]

/-! ### One register, on the transport of the chip -/

/-- A register write on the 3-wire lines leaves the levels to come alone. -/
theorem memWrite_levels (a v : Byte) (s : State) (h : s.cfg.chip = .w3) : (s.memWrite a v).env.levels = s.env.levels := by
  simp only [State.memWrite, h, w3Write_eq, setWork_env, emits_env, env_foldl_w3Write]

/-- A register write on the bus leaves the bytes to come alone. -/
theorem memWrite_bytes (a v : Byte) (s : State) (h : s.cfg.chip ≠ .w3) (hm : s.env.mode = .oracle) :
    (s.memWrite a v).env.bytes = s.env.bytes := by
  have hw : s.memWrite a v = s.i2cWrite a v := by cases hc : s.cfg.chip <;> simp_all [State.memWrite]
  obtain ⟨st, he⟩ := i2cWrite_eq a v s
  rw [hw, he, emits_env, env_foldl_i2cWrite _ _ _ _ _ hm]

/-- MemRead on 3W returns the byte the next eight levels read as, and uses them up. -/
theorem memRead_given_levels {s : State} {given rest : List Bool} {v : Byte} (a : Byte) (hc : s.cfg.chip = .w3)
    (h : s.env.levels = given ++ rest) (hv : SampledAs given v) :
    (s.memRead a).1 = v ∧ (s.memRead a).2.env.levels = rest ∧ (s.memRead a).2.cfg = s.cfg := by
  have hr : s.memRead a = s.w3Read (readCode a) := by simp only [State.memRead, hc]
  rw [hr]
  refine ⟨(w3Read_given _ h hv).1, (w3Read_given _ h hv).2, ?_⟩
  rw [w3Read_eq, setWork_cfg, emits_cfg]

/-- MemRead on an I2C chip returns the next byte, and uses it up. -/
theorem memRead_given_bytes {s : State} {v : Byte} {rest : List Byte} (a : Byte) (hc : s.cfg.chip ≠ .w3)
    (hm : s.env.mode = .oracle) (h : s.env.bytes = v :: rest) :
    (s.memRead a).1 = v ∧ (s.memRead a).2.env.bytes = rest ∧ (s.memRead a).2.env.mode = .oracle ∧
    (s.memRead a).2.cfg = s.cfg := by
  have hr : s.memRead a = s.i2cRead a := by cases hx : s.cfg.chip <;> simp_all [State.memRead]
  obtain ⟨h1, h2⟩ := i2cRead_given a s hm h
  obtain ⟨st, w, he⟩ := i2cRead_eq a s
  refine ⟨hr ▸ h1, ?_, ?_, ?_⟩
  · rw [hr, h2]
  · rw [hr, h2]; exact hm
  · rw [hr, he, emits_cfg]

end Sys2Proof.Machine
end

