-- ==== Sys2Proof/Laws/PerInstr.lean ====
section
/-! SUPPORT. The statements made once for each operation. -/

namespace Sys2Proof.Laws

open Sys2Proof

/-- The opcode of the operation decodes to the operation (R51, R52). -/
def DecodeEncode.Statement (i : Instr) : Prop := decode (encode i) = .ok i

theorem DecodeEncode.bcdDec : DecodeEncode.Statement .bcdDec := rfl
theorem DecodeEncode.bcdEnc : DecodeEncode.Statement .bcdEnc := rfl
theorem DecodeEncode.serWrb : DecodeEncode.Statement .serWrb := rfl
theorem DecodeEncode.serRdb : DecodeEncode.Statement .serRdb := rfl
theorem DecodeEncode.txnBegin : DecodeEncode.Statement .txnBegin := rfl
theorem DecodeEncode.txnEnd : DecodeEncode.Statement .txnEnd := rfl
theorem DecodeEncode.w3Rd : DecodeEncode.Statement .w3Rd := rfl
theorem DecodeEncode.w3Wr : DecodeEncode.Statement .w3Wr := rfl
theorem DecodeEncode.w3Brd : DecodeEncode.Statement .w3Brd := rfl
theorem DecodeEncode.w3Bwr : DecodeEncode.Statement .w3Bwr := rfl
theorem DecodeEncode.i2cRd : DecodeEncode.Statement .i2cRd := rfl
theorem DecodeEncode.i2cWr : DecodeEncode.Statement .i2cWr := rfl
theorem DecodeEncode.i2cBrd : DecodeEncode.Statement .i2cBrd := rfl
theorem DecodeEncode.i2cBwr : DecodeEncode.Statement .i2cBwr := rfl
theorem DecodeEncode.i2cProbe : DecodeEncode.Statement .i2cProbe := rfl
theorem DecodeEncode.timeDec3W : DecodeEncode.Statement .timeDec3W := rfl
theorem DecodeEncode.timeDecA : DecodeEncode.Statement .timeDecA := rfl
theorem DecodeEncode.timeDecB : DecodeEncode.Statement .timeDecB := rfl
theorem DecodeEncode.timeDecC : DecodeEncode.Statement .timeDecC := rfl
theorem DecodeEncode.timeDecD : DecodeEncode.Statement .timeDecD := rfl
theorem DecodeEncode.timeGet : DecodeEncode.Statement .timeGet := rfl
theorem DecodeEncode.timeSet : DecodeEncode.Statement .timeSet := rfl
theorem DecodeEncode.timeEnc3W : DecodeEncode.Statement .timeEnc3W := rfl
theorem DecodeEncode.timeEncA : DecodeEncode.Statement .timeEncA := rfl
theorem DecodeEncode.timeEncB : DecodeEncode.Statement .timeEncB := rfl
theorem DecodeEncode.timeEncC : DecodeEncode.Statement .timeEncC := rfl
theorem DecodeEncode.timeEncD : DecodeEncode.Statement .timeEncD := rfl
theorem DecodeEncode.alm4Dec : DecodeEncode.Statement .alm4Dec := rfl
theorem DecodeEncode.alm4Enc : DecodeEncode.Statement .alm4Enc := rfl
theorem DecodeEncode.alm3Dec : DecodeEncode.Statement .alm3Dec := rfl
theorem DecodeEncode.alm3Enc : DecodeEncode.Statement .alm3Enc := rfl
theorem DecodeEncode.almdDec : DecodeEncode.Statement .almdDec := rfl
theorem DecodeEncode.almdEnc : DecodeEncode.Statement .almdEnc := rfl
theorem DecodeEncode.tcsDec : DecodeEncode.Statement .tcsDec := rfl
theorem DecodeEncode.flagEval : DecodeEncode.Statement .flagEval := rfl
theorem DecodeEncode.flagSet : DecodeEncode.Statement .flagSet := rfl
theorem DecodeEncode.flagGet : DecodeEncode.Statement .flagGet := rfl
theorem DecodeEncode.ramRd : DecodeEncode.Statement .ramRd := rfl
theorem DecodeEncode.ramWr : DecodeEncode.Statement .ramWr := rfl
theorem DecodeEncode.regRd : DecodeEncode.Statement .regRd := rfl
theorem DecodeEncode.regWr : DecodeEncode.Statement .regWr := rfl
theorem DecodeEncode.runGet : DecodeEncode.Statement .runGet := rfl
theorem DecodeEncode.runSet : DecodeEncode.Statement .runSet := rfl
theorem DecodeEncode.ageDec : DecodeEncode.Statement .ageDec := rfl
theorem DecodeEncode.tempDec : DecodeEncode.Statement .tempDec := rfl

end Sys2Proof.Laws
end

