-- ==== Sys2Proof/Tests/Slice0.lean ====
section
/-! SUPPORT. Tests. Expected results come from the spec: the opcode map of R52, the vectors of `95_test_vectors.md` (named by
part and section) and the corner cases of the rules. The last section shows, for each statement with hypotheses, states that
meet them. -/

namespace Sys2Proof.Tests

open Sys2Proof Sys2Proof.Machine

/-! ### Helpers -/

/-- The 3-wire chip with the illustrative addresses of program P5. -/
def cfg3W : Params :=
  { Params.standard with regWp := 0x8E#8, regTcs := 0x90#8, regSec := 0x80#8, ramBase := 0xC0#8, runReg := 0x80#8 }

/-- An I2C chip with the illustrative addresses of `95_test_vectors.md`. -/
def cfgI2c (v : Chip) : Params :=
  { Params.ofChip v with
    devAddr := 0x68#7, ramSize := 56, ramBase := 0x08#8, ramSentinel := .ones, yearBias := .hundred }

/-- Chip D with the parameters of the probe vector (Part 2 section 3). -/
def cfgVl : Params :=
  { Params.ofChip .d with
    devAddr := 0x51#7, regVl := 0x02#8, initImage := [(0x00#8, 0x00#8), (0x02#8, 0x00#8)] }

/-- An idle block with a request on its ports and an empty trace. -/
def idleAt (p : Params) (e : Env) (r : Request) : State :=
  { State.afterReset p e with ports := r, start := true, trace := [] }

/-- The state an operation leaves. -/
def after (i : Instr) (s : State) : State :=
  match exec i s with
  | .next t => t
  | .fault r => nomatch r
  | .refused _ => s

/-- The ports with only `a`, `b`, `c` set. -/
def abc (a b : Byte) (c : Bool) : Request := { Request.zero with a := a, b := b, c := c }

/-- The ports with only `a`, `n`, `buf` set. -/
def burst (a : Byte) (n : BitVec 4) (buf : List Byte) : Request :=
  { Request.zero with a := a, n := n, buf := Buf.ofList buf }

/-- The ports with only `t` set. -/
def timed (t : CivilTime) : Request := { Request.zero with t := t }

/-- An oracle whose data line gives these levels. -/
def line (levels : List Bool) : Env := { Env.quiet with levels := levels }

/-- An oracle whose bus gives these statuses and bytes. -/
def bus (statuses : List Nat) (bytes : List Byte) : Env := { Env.quiet with statuses := statuses, bytes := bytes }

/-- The reference device holding these registers. -/
def double (mem : Memory) : Env := { Env.quiet with mode := .reference, mem := mem }

/-- The slots of a byte on the wire: an event, then the clock pulse of R92 with a settle delay of 1. -/
def slots (evs : List Event) : List Event := evs.flatMap fun e => [e, .clk true, .delay 1, .clk false]

/-- A byte sent, its bits written out in time order. -/
def sent (bits : List Bool) : List Event := .dir .out :: slots (bits.map .dout)

/-- A byte received, its samples written out in time order. -/
def received (bits : List Bool) : List Event := .dir .inp :: slots (bits.map .sample)

/-- Record T1 of Part 2 section 4. -/
def t1 : CivilTime := ⟨30, 45, 12, 15, 2, 105, 2⟩

/-- Record T2 of Part 2 section 4: a Sunday. -/
def t2 : CivilTime := ⟨0, 0, 0, 1, 0, 123, 0⟩

/-- Record T3 of Part 2 section 4. -/
def t3 : CivilTime := ⟨59, 59, 23, 31, 11, 199, 6⟩

/-! ### Well-formedness: each check refuses an ill-formed term (R75) -/

theorem test_serial_needs_3w : Instr.w3Rd.wellFormed (cfgI2c .a) 1 = false := by decide
theorem test_i2c_needs_i2c_chip : Instr.i2cRd.wellFormed cfg3W 1 = false := by decide
theorem test_burst_length_zero : Instr.w3Brd.wellFormed cfg3W 0 = false := by decide
theorem test_burst_length_nine : Instr.i2cBwr.wellFormed (cfgI2c .b) 9 = false := by decide
theorem test_time_get_length : Instr.timeGet.wellFormed { cfg3W with burstRdLen := 9 } 0 = false := by decide
theorem test_well_formed_bursts :
    Instr.w3Bwr.wellFormed cfg3W 8 = true ∧ Instr.i2cBrd.wellFormed (cfgI2c .c) 1 = true ∧
    Instr.timeGet.wellFormed cfg3W 0 = true := by decide

/-! ### Decoding: the words of R52, family in bits 7:4, function in bits 3:0 -/

theorem test_decode_bcd :
    decode 0b00010000#8 = .ok .bcdDec ∧
    decode 0b00010001#8 = .ok .bcdEnc := by decide

theorem test_decode_serial :
    decode 0b00100000#8 = .ok .serWrb ∧
    decode 0b00100001#8 = .ok .serRdb ∧
    decode 0b00100010#8 = .ok .txnBegin ∧
    decode 0b00100011#8 = .ok .txnEnd ∧
    decode 0b00100100#8 = .ok .w3Rd ∧
    decode 0b00100101#8 = .ok .w3Wr ∧
    decode 0b00100110#8 = .ok .w3Brd ∧
    decode 0b00100111#8 = .ok .w3Bwr := by decide

theorem test_decode_i2c :
    decode 0b00110000#8 = .ok .i2cRd ∧
    decode 0b00110001#8 = .ok .i2cWr ∧
    decode 0b00110010#8 = .ok .i2cBrd ∧
    decode 0b00110011#8 = .ok .i2cBwr ∧
    decode 0b00110100#8 = .ok .i2cProbe := by decide

theorem test_decode_time :
    decode 0b01000000#8 = .ok .timeDec3W ∧
    decode 0b01000001#8 = .ok .timeDecA ∧
    decode 0b01000010#8 = .ok .timeDecB ∧
    decode 0b01000011#8 = .ok .timeDecC ∧
    decode 0b01000100#8 = .ok .timeDecD ∧
    decode 0b01000110#8 = .ok .timeGet ∧
    decode 0b01000111#8 = .ok .timeSet ∧
    decode 0b01001000#8 = .ok .timeEnc3W ∧
    decode 0b01001001#8 = .ok .timeEncA ∧
    decode 0b01001010#8 = .ok .timeEncB ∧
    decode 0b01001011#8 = .ok .timeEncC ∧
    decode 0b01001100#8 = .ok .timeEncD := by decide

theorem test_decode_alarm :
    decode 0b01010000#8 = .ok .alm4Dec ∧
    decode 0b01010001#8 = .ok .alm4Enc ∧
    decode 0b01010010#8 = .ok .alm3Dec ∧
    decode 0b01010011#8 = .ok .alm3Enc ∧
    decode 0b01010100#8 = .ok .almdDec ∧
    decode 0b01010101#8 = .ok .almdEnc ∧
    decode 0b01010110#8 = .ok .tcsDec := by decide

theorem test_decode_accessor :
    decode 0b01100000#8 = .ok .flagEval ∧
    decode 0b01100001#8 = .ok .flagSet ∧
    decode 0b01100010#8 = .ok .flagGet ∧
    decode 0b01100011#8 = .ok .ramRd ∧
    decode 0b01100100#8 = .ok .ramWr ∧
    decode 0b01100101#8 = .ok .regRd ∧
    decode 0b01100110#8 = .ok .regWr ∧
    decode 0b01100111#8 = .ok .runGet ∧
    decode 0b01101000#8 = .ok .runSet ∧
    decode 0b01101001#8 = .ok .ageDec ∧
    decode 0b01101010#8 = .ok .tempDec := by decide

/-- The reserved opcodes of Part 2 section 7. -/
theorem test_reserved_opcodes :
    [0x00#8, 0x12#8, 0x28#8, 0x35#8, 0x45#8, 0x4D#8, 0x57#8, 0x6B#8, 0xFF#8].all
      (fun op => decide (decode op = .error (.reservedOpcode op))) = true := by decide

theorem test_decode_table_word :
    decodeTableWord 8 0x46 = some .timeGet ∧ decodeTableWord 8 0x45 = none ∧ decodeTableWord 16 0x46 = none := by decide

theorem test_one_number_each : (Instr.all.map encode).Nodup ∧ Instr.all.length = 45 := by decide

/-! ### Configuration (R6, R53, R116, R190, R195) -/

theorem test_configurations_agree :
    [Chip.w3, .a, .b, .c, .d].all (fun v => (Params.ofChip v).agreesWithChip) = true ∧
    cfg3W.agreesWithChip = true ∧ (cfgI2c .a).agreesWithChip = true ∧ State.reset.cfg.agreesWithChip = true := by decide
theorem test_ram_sizes : (Params.ofChip .w3).ramSize = 31 ∧ (Params.ofChip .a).ramSize = 56 := by decide
theorem test_ram_size_of_the_other_chip :
    { cfg3W with ramSize := 56 }.agreesWithChip = false ∧ { cfgI2c .a with ramSize := 31 }.agreesWithChip = false := by
  decide

/-! ### BCD (Part 2 section 1) -/

theorem test_bcd_dec : (after .bcdDec (idleAt cfg3W Env.quiet (abc 0x59#8 0 false))).res.r = 59#8 := by decide
theorem test_bcd_dec_malformed : (after .bcdDec (idleAt cfg3W Env.quiet (abc 0xFF#8 0 false))).res.r = 165#8 := by decide
theorem test_bcd_enc : (after .bcdEnc (idleAt cfg3W Env.quiet (abc 99#8 0 false))).res.r = 0x99#8 := by decide
theorem test_bcd_enc_wraps : (after .bcdEnc (idleAt cfg3W Env.quiet (abc 255#8 0 false))).res.r = 0x95#8 := by decide

/-! ### Serial and 3-wire (Part 2 section 2) -/

theorem test_ser_wrb :
    (after .serWrb (idleAt cfg3W Env.quiet (abc 0xA5#8 0 false))).trace =
      sent [true, false, true, false, false, true, false, true] := by decide
theorem test_ser_rdb :
    (after .serRdb (idleAt cfg3W (line [true, true, false, false, true, false, true, false]) Request.zero)).res.r
      = 0x53#8 := by decide
theorem test_ser_rdb_trace :
    (after .serRdb (idleAt cfg3W (line [false, false, false, false, false, false, false, true]) Request.zero)).trace =
      received [false, false, false, false, false, false, false, true] := by decide
theorem test_txn_begin :
    (after .txnBegin (idleAt cfg3W Env.quiet Request.zero)).trace = [.clk false, .en true, .delay 4] := by decide
theorem test_txn_end :
    (after .txnEnd (idleAt cfg3W Env.quiet Request.zero)).trace = [.en false, .delay 4] := by decide
theorem test_w3_rd :
    (after .w3Rd (idleAt cfg3W (line [true, false, false, true, true, false, true, false]) (abc 0x81#8 0 false))).trace =
      [.clk false, .en true, .delay 4] ++ sent [true, false, false, false, false, false, false, true] ++
        received [true, false, false, true, true, false, true, false] ++ [.en false, .delay 4] := by decide
theorem test_w3_rd_result :
    (after .w3Rd (idleAt cfg3W (line [true, false, false, true, true, false, true, false]) (abc 0x81#8 0 false))).res.r
      = 0x59#8 := by decide
theorem test_w3_wr :
    (after .w3Wr (idleAt cfg3W Env.quiet (abc 0x8E#8 0x00#8 false))).trace =
      [.clk false, .en true, .delay 4] ++ sent [false, true, true, true, false, false, false, true] ++
        sent [false, false, false, false, false, false, false, false] ++ [.en false, .delay 4] := by decide
theorem test_w3_wr_pins :
    (after .w3Wr (idleAt cfg3W Env.quiet (abc 0x8E#8 0x80#8 false))).pins = ⟨false, false, true, .out⟩ := by decide
theorem test_w3_brd :
    (after .w3Brd (idleAt cfg3W
      (line [true, false, false, false, false, false, false, false, false, true, false, false, false, false, false, true])
      (burst 0xBF#8 2 []))).res.rbuf = ⟨0x01, 0x82, 0, 0, 0, 0, 0, 0⟩ := by decide
theorem test_w3_brd_refused :
    (after .w3Brd (idleAt cfg3W Env.quiet (burst 0xBF#8 9 []))).status.ill = true ∧
    (after .w3Brd (idleAt cfg3W Env.quiet (burst 0xBF#8 0 []))).trace = [] := by decide
set_option maxRecDepth 8000 in
theorem test_w3_bwr :
    (after .w3Bwr (idleAt cfg3W Env.quiet (burst 0xBE#8 2 [0x30, 0x45]))).trace =
      [.clk false, .en true, .delay 4] ++ sent [false, true, true, true, true, true, false, true] ++
        sent [false, false, false, false, true, true, false, false] ++
        sent [true, false, true, false, false, false, true, false] ++ [.en false, .delay 4] := by decide
set_option maxRecDepth 8000 in
theorem test_w3_bwr_length :
    (after .w3Bwr (idleAt cfg3W Env.quiet (burst 0xBE#8 8 []))).trace.length = 302 := by rfl

/-! ### I2C (Part 2 section 3) -/

theorem test_i2c_rd :
    (after .i2cRd (idleAt (cfgI2c .a) (bus [2] [0xFF]) (abc 0x00#8 0 false))).trace =
      [.i2cBegin 0x68, .i2cWrite 0x00, .i2cEnd 2, .i2cRequest 0x68 1, .i2cRead 0xFF] := by decide
theorem test_i2c_rd_result :
    (after .i2cRd (idleAt (cfgI2c .a) (bus [0] [0x59]) (abc 0x00#8 0 false))).res.r = 0x59#8 := by decide
theorem test_i2c_wr :
    (after .i2cWr (idleAt (cfgI2c .a) (bus [0] []) (abc 0x07#8 0x10#8 false))).trace =
      [.i2cBegin 0x68, .i2cWrite 0x07, .i2cWrite 0x10, .i2cEnd 0] := by decide
theorem test_i2c_wr_reference :
    (after .i2cWr (idleAt (cfgI2c .a) (double [(7, 0x03)]) (abc 0x07#8 0x00#8 false))).env.mem = [] := by decide
theorem test_i2c_brd :
    (after .i2cBrd (idleAt (cfgI2c .b) (bus [0] [0x19, 0x40]) (burst 0x11#8 2 []))).res.rbuf
      = ⟨0x19, 0x40, 0, 0, 0, 0, 0, 0⟩ := by decide
theorem test_i2c_brd_refused :
    (after .i2cBrd (idleAt (cfgI2c .b) Env.quiet (burst 0x00#8 9 []))).status.ill = true := by decide
theorem test_i2c_bwr :
    (after .i2cBwr (idleAt (cfgI2c .b) (bus [0] []) (burst 0x00#8 7 [0x30, 0x45, 0x12, 0x02, 0x15, 0x83, 0x05]))).trace =
      [.i2cBegin 0x68, .i2cWrite 0x00, .i2cWrite 0x30, .i2cWrite 0x45, .i2cWrite 0x12, .i2cWrite 0x02, .i2cWrite 0x15,
       .i2cWrite 0x83, .i2cWrite 0x05, .i2cEnd 0] := by decide
theorem test_i2c_bwr_wraps :
    (after .i2cBwr (idleAt (cfgI2c .b) (double []) (burst 0xFF#8 2 [0x11, 0x22]))).env.mem
      = [(0, 0x22), (255, 0x11)] := by decide
theorem test_i2c_probe_voltage_low :
    (after .i2cProbe (idleAt cfgVl (bus [0, 0, 0, 0] [0x80]) Request.zero)).trace =
      [.i2cBegin 0x51, .i2cEnd 0, .i2cBegin 0x51, .i2cWrite 0x02, .i2cEnd 0, .i2cRequest 0x51 1, .i2cRead 0x80,
       .i2cBegin 0x51, .i2cWrite 0x00, .i2cWrite 0x00, .i2cEnd 0, .i2cBegin 0x51, .i2cWrite 0x02, .i2cWrite 0x00,
       .i2cEnd 0] := by decide
theorem test_i2c_probe_absent :
    (after .i2cProbe (idleAt cfgVl (bus [2] []) Request.zero)).trace = [.i2cBegin 0x51, .i2cEnd 2] ∧
    (after .i2cProbe (idleAt cfgVl (bus [2] []) Request.zero)).status.present = false := by decide

/-! ### Time (Part 2 section 4) -/

theorem test_time_dec_3w :
    (after .timeDec3W (idleAt cfg3W Env.quiet (burst 0 0 [0xD9, 0x59, 0x23, 0x31, 0x12, 0x07, 0x99]))).res.rt
      = ⟨59, 59, 23, 31, 11, 99, 0⟩ := by decide
theorem test_time_dec_a :
    (after .timeDecA (idleAt (cfgI2c .a) Env.quiet (burst 0 0 [0x30, 0x45, 0x52, 0x00, 0x15, 0x03, 0x05]))).res.rt
      = ⟨30, 45, 12, 15, 2, 105, 0⟩ := by decide
theorem test_time_dec_b :
    (after .timeDecB (idleAt (cfgI2c .b) Env.quiet (burst 0 0 [0x30, 0x45, 0x12, 0x02, 0x15, 0xE3, 0x05]))).res.rt = t1 := by
  decide
theorem test_time_dec_b_month_zero :
    (after .timeDecB (idleAt (cfgI2c .b) Env.quiet (burst 0 0 [0x30, 0x45, 0x12, 0x02, 0x15, 0x80, 0x05]))).res.rt
      = ⟨30, 45, 12, 15, 255, 105, 2⟩ := by decide
theorem test_time_dec_c :
    (after .timeDecC (idleAt (cfgI2c .c) Env.quiet (burst 0 0 [0x30, 0x45, 0x12, 0x06, 0x15, 0x03, 0x05]))).res.rt
      = ⟨30, 45, 12, 15, 2, 105, 1⟩ := by decide
theorem test_time_dec_c_no_weekday :
    (after .timeDecC (idleAt (cfgI2c .c) Env.quiet (burst 0 0 [0x30, 0x45, 0x12, 0x80, 0x15, 0x03, 0x05]))).res.rt
      = ⟨30, 45, 12, 15, 2, 105, Config.freeWday 0⟩ := by rfl
theorem test_time_dec_d :
    (after .timeDecD (idleAt (cfgI2c .d) Env.quiet (burst 0 0 [0xB0, 0x45, 0x12, 0x15, 0x02, 0x83, 0x05]))).res.rt = t1 := by
  decide
theorem test_time_dec_d_seven :
    (after .timeDecD (idleAt (cfgI2c .d) Env.quiet (burst 0 0 [0x30, 0x45, 0x12, 0x15, 0x07, 0x03, 0x05]))).res.rt
      = ⟨30, 45, 12, 15, 2, 5, 7⟩ := by decide
theorem test_time_enc_3w :
    (after .timeEnc3W (idleAt cfg3W Env.quiet (timed t2))).res.rbuf
      = ⟨0x00, 0x00, 0x00, 0x01, 0x01, 0x07, 0x23, 0x00⟩ := by decide
theorem test_time_enc_a :
    (after .timeEncA (idleAt cfg3W Env.quiet (timed ⟨80, 0, 0, 1, 0, 100, 1⟩))).res.rbuf
      = ⟨0x80, 0x00, 0x00, 0x01, 0x01, 0x01, 0x00, 0⟩ := by decide
theorem test_time_enc_b :
    (after .timeEncB (idleAt cfg3W Env.quiet (timed ⟨30, 45, 12, 15, 2, 205, 2⟩))).res.rbuf
      = ⟨0x30, 0x45, 0x12, 0x02, 0x15, 0x83, 0x05, 0⟩ := by decide
theorem test_time_enc_c :
    (after .timeEncC (idleAt cfg3W Env.quiet (timed ⟨0, 0, 0, 1, 0, 100, 7⟩))).res.rbuf
      = ⟨0x00, 0x00, 0x00, 0x80, 0x01, 0x01, 0x00, 0⟩ := by decide
theorem test_time_enc_d :
    (after .timeEncD (idleAt cfg3W Env.quiet (timed t3))).res.rbuf
      = ⟨0x59, 0x59, 0x23, 0x31, 0x06, 0x92, 0x99, 0⟩ := by decide
theorem test_time_get :
    (after .timeGet (idleAt (cfgI2c .b) (bus [0] [0x30, 0x45, 0x12, 0x02, 0x15, 0x83, 0x05]) Request.zero)).res.rt = t1 := by
  decide
set_option maxRecDepth 8000 in
theorem test_time_get_3w_length :
    (after .timeGet (idleAt cfg3W (line (List.replicate 56 false)) Request.zero)).trace.length = 269 := by rfl
theorem test_time_set :
    (after .timeSet (idleAt (cfgI2c .b) (bus [0] []) (timed t1))).trace =
      [.i2cBegin 0x68, .i2cWrite 0x00, .i2cWrite 0x30, .i2cWrite 0x45, .i2cWrite 0x12, .i2cWrite 0x02, .i2cWrite 0x15,
       .i2cWrite 0x83, .i2cWrite 0x05, .i2cEnd 0] := by decide
theorem test_time_set_3w :
    (after .timeSet (idleAt cfg3W Env.quiet (timed t1))).res.rbuf
      = ⟨0x30, 0x45, 0x12, 0x15, 0x03, 0x02, 0x05, 0x00⟩ := by decide

/-! ### Alarms and the trickle charger (Part 2 section 5) -/

theorem test_alm4_dec :
    (after .alm4Dec (idleAt cfg3W Env.quiet (burst 0 0 [0xB0, 0xC5, 0x92, 0xC2]))).res
      = { Results.zero with rrate := 5, rt := ⟨30, 45, 12, 0, 0, 0, 2⟩ } := by decide
theorem test_alm4_dec_invalid :
    (after .alm4Dec (idleAt cfg3W Env.quiet (burst 0 0 [0x30, 0xC5, 0x12, 0x15]))).res.rrate = 7 ∧
    (after .alm4Dec (idleAt cfg3W Env.quiet (burst 0 0 [0x30, 0xC5, 0x12, 0x15]))).status.rateInvalid = true := by decide
theorem test_alm4_enc :
    (after .alm4Enc (idleAt cfg3W Env.quiet { timed t1 with rate := 5 })).res.rbuf.first 4
      = [0xB0, 0xC5, 0x92, 0xC2] := by decide
theorem test_alm4_enc_other_polarity :
    (after .alm4Enc (idleAt { cfg3W with alarmMaskActive := false } Env.quiet { timed t1 with rate := 1 })).res.rbuf.first 4
      = [0x30, 0xC5, 0x92, 0x95] := by decide
theorem test_alm3_dec :
    (after .alm3Dec (idleAt cfg3W Env.quiet (burst 0 0 [0xC5, 0x92, 0x95]))).res
      = { Results.zero with rrate := 4, rt := ⟨0, 45, 12, 15, 0, 0, 0⟩ } := by decide
theorem test_alm3_dec_invalid :
    (after .alm3Dec (idleAt cfg3W Env.quiet (burst 0 0 [0x45, 0x92, 0x15]))).res.rrate = 7 := by decide
theorem test_alm3_enc :
    (after .alm3Enc (idleAt cfg3W Env.quiet { timed t1 with rate := 3 })).res.rbuf.first 3
      = [0xC5, 0x92, 0x15] := by decide
theorem test_alm3_enc_weekday :
    (after .alm3Enc (idleAt cfg3W Env.quiet { timed t1 with rate := 5 })).res.rbuf.first 3
      = [0xC5, 0x92, 0xC2] := by decide
theorem test_almd_dec :
    (after .almdDec (idleAt cfg3W Env.quiet (burst 0 0 [0x30, 0x07, 0x22]))).res.rdd
      = ⟨some 30, some 7, none, some 0x22⟩ := by decide
theorem test_almd_dec_disabled_first :
    (after .almdDec (idleAt cfg3W Env.quiet { burst 0 0 [0x80, 0x07, 0x95] with c := true })).res.rdd
      = ⟨none, some 7, none, none⟩ := by decide
theorem test_almd_enc :
    (after .almdEnc (idleAt cfg3W Env.quiet { Request.zero with dd := ⟨some 30, some 7, some 15, none⟩ })).res
      = { Results.zero with rbuf := ⟨0x30, 0x07, 0x15, 0, 0, 0, 0, 0⟩, rsel := true } := by decide
theorem test_almd_enc_both :
    (after .almdEnc (idleAt cfg3W Env.quiet { Request.zero with dd := ⟨some 30, some 7, some 15, some 0x22⟩ })).res
      = { Results.zero with rbuf := ⟨0x30, 0x07, 0x80, 0, 0, 0, 0, 0⟩, rsel := false } := by decide
theorem test_tcs_dec :
    [0xA5#8, 0xA6#8, 0xA7#8, 0xA9#8, 0xAA#8, 0xAB#8].map
      (fun a => (after .tcsDec (idleAt cfg3W Env.quiet (abc a 0 false))).res.r) = [1, 2, 3, 4, 5, 6] := by decide
theorem test_tcs_dec_off :
    [0x00#8, 0xA4#8, 0x5C#8, 0xA8#8].map
      (fun a => (after .tcsDec (idleAt cfg3W Env.quiet (abc a 0 false))).status.rateInvalid)
      = [true, true, true, true] := by decide

/-! ### Accessors (Part 2 section 6) -/

theorem test_flag_eval :
    (after .flagEval (idleAt cfg3W Env.quiet (abc 0x05#8 0x0F#8 true))).res.r = 0x0F#8 ∧
    (after .flagEval (idleAt cfg3W Env.quiet (abc 0x05#8 0x0F#8 true))).status.wrNeeded = true := by decide
theorem test_flag_eval_no_write :
    (after .flagEval (idleAt cfg3W Env.quiet (abc 0x13#8 0x10#8 true))).res.r = 0x13#8 ∧
    (after .flagEval (idleAt cfg3W Env.quiet (abc 0x13#8 0x10#8 true))).status.wrNeeded = false := by decide
theorem test_flag_set :
    (after .flagSet (idleAt (cfgI2c .b) (bus [0, 0] [0x03]) (abc 0x0F#8 0x01#8 false))).trace =
      [.i2cBegin 0x68, .i2cWrite 0x0F, .i2cEnd 0, .i2cRequest 0x68 1, .i2cRead 0x03,
       .i2cBegin 0x68, .i2cWrite 0x0F, .i2cWrite 0x02, .i2cEnd 0] := by decide
theorem test_flag_set_idempotent :
    (after .flagSet (idleAt (cfgI2c .b) (bus [0, 0] [0x02]) (abc 0x0F#8 0x01#8 false))).trace =
      [.i2cBegin 0x68, .i2cWrite 0x0F, .i2cEnd 0, .i2cRequest 0x68 1, .i2cRead 0x02] := by decide
theorem test_flag_get :
    (after .flagGet (idleAt (cfgI2c .b) (bus [0] [0x01]) (abc 0x0F#8 0x03#8 false))).res.r = 1#8 := by decide
theorem test_flag_get_clear :
    (after .flagGet (idleAt (cfgI2c .b) (bus [0] [0x01]) (abc 0x0F#8 0x02#8 false))).res.r = 0#8 := by decide
theorem test_ram_rd_address :
    (after .ramRd (idleAt cfg3W (line (List.replicate 8 true)) (abc 30#8 0 false))).trace =
      [.clk false, .en true, .delay 4] ++ sent [true, false, true, true, true, true, true, true] ++
        received [true, true, true, true, true, true, true, true] ++ [.en false, .delay 4] := by decide
theorem test_ram_rd_out_of_range :
    (after .ramRd (idleAt (cfgI2c .a) Env.quiet (abc 56#8 0 false))).res.r = 0xFF#8 ∧
    (after .ramRd (idleAt (cfgI2c .a) Env.quiet (abc 56#8 0 false))).trace = [] := by decide
theorem test_ram_wr :
    (after .ramWr (idleAt (cfgI2c .a) (bus [0] []) (abc 55#8 0x5A#8 false))).trace =
      [.i2cBegin 0x68, .i2cWrite 0x3F, .i2cWrite 0x5A, .i2cEnd 0] := by decide
theorem test_ram_wr_out_of_range :
    (after .ramWr (idleAt cfg3W Env.quiet (abc 31#8 0x5A#8 false))).status.oor = true ∧
    (after .ramWr (idleAt cfg3W Env.quiet (abc 31#8 0x5A#8 false))).trace = [] := by decide
theorem test_reg_rd_3w_reads_the_next_code :
    (after .regRd (idleAt cfg3W (line [true, false, true, false, false, true, false, true]) (abc 0x90#8 0 false))).trace =
      [.clk false, .en true, .delay 4] ++ sent [true, false, false, false, true, false, false, true] ++
        received [true, false, true, false, false, true, false, true] ++ [.en false, .delay 4] := by decide
theorem test_reg_rd_i2c :
    (after .regRd (idleAt (cfgI2c .b) (bus [0] [0x83]) (abc 0x05#8 0 false))).res.r = 0x83#8 := by decide
theorem test_reg_wr_3w :
    (after .regWr (idleAt cfg3W Env.quiet (abc 0x90#8 0xA5#8 false))).trace =
      [.clk false, .en true, .delay 4] ++ sent [false, false, false, false, true, false, false, true] ++
        sent [true, false, true, false, false, true, false, true] ++ [.en false, .delay 4] := by decide
theorem test_reg_wr_i2c :
    (after .regWr (idleAt (cfgI2c .b) (bus [0] []) (abc 0x08#8 0x45#8 false))).trace =
      [.i2cBegin 0x68, .i2cWrite 0x08, .i2cWrite 0x45, .i2cEnd 0] := by decide
theorem test_run_get :
    (after .runGet (idleAt (cfgI2c .a) (bus [0] [0xD9]) Request.zero)).res.r = 0#8 ∧
    (after .runGet (idleAt (cfgI2c .a) (bus [0] [0x59]) Request.zero)).res.r = 1#8 := by decide
theorem test_run_set :
    (after .runSet (idleAt (cfgI2c .a) (bus [0, 0] [0xD9]) (abc 0 0 true))).trace =
      [.i2cBegin 0x68, .i2cWrite 0x00, .i2cEnd 0, .i2cRequest 0x68 1, .i2cRead 0xD9,
       .i2cBegin 0x68, .i2cWrite 0x00, .i2cWrite 0x59, .i2cEnd 0] := by decide
theorem test_run_set_running :
    (after .runSet (idleAt (cfgI2c .a) (bus [0, 0] [0x59]) (abc 0 0 true))).status.wrNeeded = false := by decide
/-- A stop value that no flag equals: always running (R193). -/
theorem test_run_get_wide_stop_value :
    (after .runGet (idleAt { cfgI2c .b with runMask := 0x80, runStopValue := 0x03 } (bus [0] [0xD9]) Request.zero)).res.r
      = 1#8 := by decide

theorem test_age_dec :
    (after .ageDec (idleAt cfg3W Env.quiet (abc 0x80#8 0 false))).res.r16.toInt = -128 := by decide
theorem test_temp_dec :
    (after .tempDec (idleAt cfg3W Env.quiet (abc 0x19#8 0x7F#8 false))).res.r16.toInt = 6464 := by decide
theorem test_temp_dec_negative :
    (after .tempDec (idleAt cfg3W Env.quiet (abc 0xE7#8 0x80#8 false))).res.r16.toInt = -6272 := by decide

/-! ### The step, refusal, reset (R50, R75, R225, R237) -/

theorem test_fetch_word_runs_the_operation :
    step (State.reset.withFetchWord 8 0x11) = exec .bcdEnc (State.reset.withFetchWord 8 0x11) := by rfl
theorem test_reserved_opcode_refused :
    runRequest (idleAt cfg3W Env.quiet { Request.zero with op := 0x45 }) =
      .next (State.refuse (idleAt cfg3W Env.quiet { Request.zero with op := 0x45 })) := by rfl
theorem test_wrong_family_refused :
    (after .i2cRd (idleAt cfg3W Env.quiet Request.zero)).status = ⟨false, false, false, false, true⟩ ∧
    (after .w3Rd (idleAt (cfgI2c .a) Env.quiet (abc 0x81#8 0 false))).trace = [] := by decide

/-- A reset after 36 primitive steps of a 3-wire write: framing entry and command byte sent, then the reset events. -/
theorem test_reset_mid_operation :
    step { idleAt cfg3W Env.quiet (regWriteRequest 0x8E 0xFF) with resetIn := some 36 } =
      .next { State.afterReset cfg3W Env.quiet with
        ports := regWriteRequest 0x8E 0xFF
        trace := [.clk false, .en true, .delay 4] ++ sent [false, true, true, true, false, false, false, true] ++
          [.en false, .clk false, .dir .inp] } := by rfl
theorem test_start_while_busy :
    step { idleAt cfg3W Env.quiet (abc 1 2 true) with busy := true } =
      .next { idleAt cfg3W Env.quiet (abc 1 2 true) with busy := true, start := false } := by rfl


/-! ### Witnesses: concrete states and operands that meet the hypotheses of the statements -/

/-- An idle block of configuration `p` with an opcode and a burst length on its ports. -/
def opAt (p : Params) (op : Byte) (n : BitVec 4) : State := idleAt p Env.quiet { Request.zero with op := op, n := n }

/-- An idle block of chip `v` with the reference device holding one register. -/
def refAt (v : Chip) (r : Request) : State := idleAt (cfgI2c v) (double [(0x08, 0x5A)]) r

theorem witness_decodeAndEncodeAgree :
    decode 0x10#8 = .ok .bcdDec ∧ (∀ i : Instr, encode i ≠ 0x45#8) ∧ (∀ i : Instr, encode i ≠ 0x6B#8) := by
  refine ⟨by decide, ?_, ?_⟩ <;> intro i <;> cases i <;> decide

theorem witness_stepRunsDecodedOperation :
    ((opAt cfg3W 0x10 0).start = true ∧ (opAt cfg3W 0x10 0).busy = false ∧ (opAt cfg3W 0x10 0).resetIn = none ∧
      decode (opAt cfg3W 0x10 0).ports.op = .ok .bcdDec) ∧
    (State.reset.start = false ∧ State.reset.resetIn = none ∧ State.reset.host = []) ∧
    { State.reset with host := [.issue Request.zero] }.host = [.issue Request.zero] ∧
    { State.reset with host := [.reset, .issue Request.zero] }.host = .reset :: [.issue Request.zero] ∧
    { State.reset with host := [.issueThenReset Request.zero 0] }.host = [.issueThenReset Request.zero 0] := by decide

/-- R75's grounds and their edges: a reserved opcode; the wrong family on either side; burst lengths 0, 9 and 1, 8. -/
theorem witness_refusedExactlyWhenRequired :
    decode (opAt cfg3W 0x45 0).ports.op = .error (.reservedOpcode 0x45) ∧
    (decode (opAt (cfgI2c .a) 0x24 0).ports.op = .ok .w3Rd ∧ Instr.w3Rd.family = .serial ∧ (cfgI2c .a).chip ≠ .w3) ∧
    (decode (opAt cfg3W 0x30 0).ports.op = .ok .i2cRd ∧ Instr.i2cRd.family = .i2c ∧ cfg3W.chip = .w3) ∧
    [0#4, 9#4].all (fun n => decide (¬ (1 ≤ (opAt cfg3W 0x26 n).ports.n.toNat ∧ (opAt cfg3W 0x26 n).ports.n.toNat ≤ 8))) ∧
    [1#4, 8#4].all (fun n => decide (1 ≤ (opAt cfg3W 0x26 n).ports.n.toNat ∧ (opAt cfg3W 0x26 n).ports.n.toNat ≤ 8)) ∧
    Instr.w3Brd.family ≠ .i2c ∧ 1 ≤ cfg3W.burstRdLen ∧ cfg3W.burstRdLen ≤ 8 := by decide

theorem witness_startWhileBusyIsLost :
    { opAt cfg3W 0x10 0 with busy := true }.start = true ∧ { opAt cfg3W 0x10 0 with busy := true }.resetIn = none := by
  decide

/-- A reset at rest, while busy, with a reserved opcode waiting, and in the middle of a 3-wire write: after no primitive step,
after some, and past the last of its 71. -/
theorem witness_resetAbandonsTheOperation :
    ({ State.reset with resetIn := some 0 }.start = false ∧ { State.reset with resetIn := some 0 }.resetIn = some 0 ∧
      State.reset.host = []) ∧
    { opAt cfg3W 0x25 0 with busy := true, resetIn := some 0 }.busy = true ∧
    decode { opAt cfg3W 0x45 0 with resetIn := some 0 }.ports.op = .error (.reservedOpcode 0x45) ∧
    [0, 36, 72].all (fun k =>
      let s := { opAt cfg3W 0x25 0 with resetIn := some k }
      s.start && !s.busy && decide (s.resetIn = some k) && decide (decode s.ports.op = .ok .w3Wr)) = true := by decide

/-- A reset that meets a reserved opcode: the block waits, and nothing of the refusal is seen. -/
theorem test_reset_with_a_reserved_opcode :
    step { opAt cfg3W 0x45 0 with resetIn := some 0 } =
      .next { State.afterReset cfg3W Env.quiet with ports := (opAt cfg3W 0x45 0).ports } := by rfl

theorem witness_invariantHoldsAfterReset : (double [(0x08, 0x5A)]).mem.wf = true := by decide

/-- A 3-wire block in the middle of its life, with a command byte to send: it meets the invariant and steps. -/
theorem witness_invariantKeptByEveryStep :
    { opAt cfg3W 0x20 0 with trace := [.en false, .clk false, .dir .inp] }.Inv ∧
    step { opAt cfg3W 0x20 0 with trace := [.en false, .clk false, .dir .inp] } =
      .next (after .serWrb { opAt cfg3W 0x20 0 with trace := [.en false, .clk false, .dir .inp] }) := by
  refine ⟨by unfold State.Inv; decide, by rfl⟩

theorem witness_resultsAreThisOperationsOwn :
    exec .bcdDec (opAt cfg3W 0x10 0) = .next (after .bcdDec (opAt cfg3W 0x10 0)) ∧
    ResultPort.rbuf ∉ resultsOf .bcdDec ∧ Instr.bcdDec ≠ .timeDecC ∧ Instr.bcdDec ≠ .timeGet ∧
    (exec .timeGet (opAt (cfgI2c .b) 0x46 0) = .next (after .timeGet (opAt (cfgI2c .b) 0x46 0)) ∧
      Instr.timeGet ≠ .timeDecC ∧ (opAt (cfgI2c .b) 0x46 0).cfg.chip ≠ .c) := by
  refine ⟨by rfl, by decide, by decide, by decide, by rfl, by decide, by decide⟩

theorem witness_otherDeviceRegistersUnchanged :
    (refAt .a (abc 0x07 0x10 false)).env.mem.wf = true ∧
    exec .i2cWr (refAt .a (abc 0x07 0x10 false)) = .next (after .i2cWr (refAt .a (abc 0x07 0x10 false))) ∧
    0x08#8 ∉ storedAddresses .i2cWr (refAt .a (abc 0x07 0x10 false)) := by
  refine ⟨by decide, by rfl, by decide⟩

/-- Each ground of the statement: a 3-wire write, a write at the oracle, a flag already as wanted, a probe of a device whose
voltage-low flag is clear, a RAM index at its bound. -/
theorem witness_nothingStoredWhereNothingIsWritten :
    (opAt cfg3W 0x25 0).cfg.chip = .w3 ∧ (opAt (cfgI2c .a) 0x31 0).env.mode = .oracle ∧
    (after .flagSet (refAt .a (abc 0x08 0x02 true))).status.wrNeeded = false ∧
    (after .i2cProbe (idleAt cfgVl (double []) Request.zero)).res.r = 0x00#8 ∧
    (after .ramWr (refAt .a (abc 56 0x11 false))).status.oor = true := by decide

/-- The last RAM index, both ends of the burst length, and the reference device. -/
theorem witness_referenceDevice :
    [1#4, 8#4].all (fun n =>
      let s := refAt .a { abc 55 0x11 false with n := n }
      decide (s.cfg.chip ≠ .w3) && decide (s.env.mode = .reference) && s.env.mem.wf &&
        decide (s.ports.a.toNat < s.cfg.ramSize) && decide (1 ≤ s.ports.n.toNat) && decide (s.ports.n.toNat ≤ 8)) = true := by
  decide

theorem witness_timeSetThenGet_century :
    (refAt .b (timed t3)).cfg.chip ≠ .w3 ∧ (refAt .b (timed t3)).env.mode = .reference ∧
    (refAt .b (timed t3)).env.mem.wf = true ∧ (refAt .b (timed t3)).cfg.masks = FieldMasks.table ∧
    (refAt .b (timed t3)).ports.t.inRange 0 199 ∧
    exec .timeSet (refAt .b (timed t3)) = .next (after .timeSet (refAt .b (timed t3))) := by
  refine ⟨by decide, by decide, by decide, by decide, ?_, by rfl⟩
  unfold CivilTime.inRange; decide

/-- Both ends of the year range of a chip with no century flag, with `YEAR_BIAS` 100. -/
theorem witness_timeSetThenGet_biased :
    (refAt .c (timed { t3 with year := 199 })).ports.t.inRange (cfgI2c .c).yearBias.toNat ((cfgI2c .c).yearBias.toNat + 99) ∧
    (refAt .c (timed { t3 with year := 100 })).ports.t.inRange (cfgI2c .c).yearBias.toNat
      ((cfgI2c .c).yearBias.toNat + 99) := by
  unfold CivilTime.inRange; decide

theorem witness_threeWireAnswers :
    cfg3W.chip = .w3 ∧ (line (List.replicate 9 true)).levels = List.replicate 8 true ++ [true] ∧
    SampledAs (List.replicate 8 true) 0xFF#8 ∧ Instr.serRdb ∈ [Instr.serRdb, .w3Rd] ∧
    (abc 30 0 false).a.toNat < cfg3W.ramSize := by
  unfold SampledAs; decide

/-- Bursts at both ends of the length, and time bursts of seven and eight bytes. -/
theorem witness_threeWireBurstAnswers :
    SampledAll [List.replicate 8 true] [0xFF#8] ∧
    (∀ k, SampledAll (List.replicate k (List.replicate 8 true)) (List.replicate k 0xFF#8)) ∧
    (line (List.replicate 8 true)).levels = [List.replicate 8 true].flatten ++ [] ∧
    (burst 0 1 []).n.toNat = [0xFF#8].length ∧ (burst 0 8 []).n.toNat = (List.replicate 8 0xFF#8).length ∧
    cfg3W.burstRdLen = (List.replicate 7 0xFF#8).length ∧
    { cfg3W with burstRdLen := 8 }.burstRdLen = (List.replicate 8 0xFF#8).length := by
  have h : SampledAs (List.replicate 8 true) 0xFF#8 := by unfold SampledAs; decide
  have hk : ∀ k, SampledAll (List.replicate k (List.replicate 8 true)) (List.replicate k 0xFF#8) := fun k => by
    induction k with
    | zero => exact .nil
    | succ k ih => exact .cons h ih
  exact ⟨hk 1, hk, by decide, by decide, by decide, by decide, by decide⟩

theorem witness_i2cAnswers :
    (cfgI2c .a).chip ≠ .w3 ∧ (bus [0, 2] [0x59]).mode = .oracle ∧ (bus [0, 2] [0x59]).bytes = 0x59#8 :: [] ∧
    (bus [0, 2] [0x59]).statuses = 0 :: [2] ∧ (abc 55 0 false).a.toNat < (cfgI2c .a).ramSize ∧
    (bus [] [1, 2, 3, 4, 5, 6, 7, 8]).bytes = [1, 2, 3, 4, 5, 6, 7] ++ [8] ∧
    (burst 0 1 []).n.toNat = [0x59#8].length ∧ (burst 0 8 []).n.toNat = (List.replicate 8 0x59#8).length := by decide

/-- The probe's cases: absent; present on A; present on D with the voltage-low flag clear and set. -/
theorem witness_probeAnswers :
    (bus [4, 0] []).statuses = 4 :: [0] ∧ (cfgI2c .a).chip = .a ∧ cfgVl.chip = .d ∧
    (bus [0, 0] [0x7F]).statuses = 0 :: [0] ∧ (bus [0, 0] [0x7F]).bytes = 0x7F#8 :: [] ∧
    0x7F#8 &&& cfgVl.vlMask = 0x00#8 ∧ 0x80#8 &&& cfgVl.vlMask ≠ 0x00#8 := by decide

theorem witness_acknowledgmentSeenByTheProbeOnly : Instr.i2cRd ≠ .i2cProbe ∧ Instr.i2cWr ≠ .i2cProbe := by decide

/-- The edges of the BCD ranges. -/
theorem witness_bcdRoundTrips :
    [0x00#8, 0x09#8, 0x99#8].all (fun a => decide (a.toNat / 16 ≤ 9) && decide (a.toNat % 16 ≤ 9)) = true ∧
    [0#8, 99#8].all (fun a => decide (a.toNat ≤ 99)) = true := by decide

/-- The 3-wire statements, with both ends of the burst length. -/
theorem witness_threeWire :
    [1#4, 8#4].all (fun n => decide ((opAt cfg3W 0x26 n).cfg.chip = .w3) &&
      decide (1 ≤ (opAt cfg3W 0x26 n).ports.n.toNat) && decide ((opAt cfg3W 0x26 n).ports.n.toNat ≤ 8)) = true ∧
    [Instr.w3Rd, .w3Wr, .w3Brd, .w3Bwr].all (fun i => i ∈ [Instr.w3Rd, .w3Wr, .w3Brd, .w3Bwr]) = true := by decide

/-- The I2C statements, with both ends of the burst length, on every I2C chip. -/
theorem witness_i2c :
    [Chip.a, .b, .c, .d].all (fun v => [1#4, 8#4].all fun n => decide ((opAt (cfgI2c v) 0x32 n).cfg.chip ≠ .w3) &&
      decide (1 ≤ (opAt (cfgI2c v) 0x32 n).ports.n.toNat) && decide ((opAt (cfgI2c v) 0x32 n).ports.n.toNat ≤ 8)) = true := by
  decide

/-- The probe's cases: absent; present on A; present on D with the voltage-low flag set and clear. -/
theorem witness_probeReportsPresence :
    (after .i2cProbe (idleAt (cfgI2c .a) (bus [4] []) Request.zero)).trace = [.i2cBegin 0x68, .i2cEnd 4] ∧
    (after .i2cProbe (idleAt (cfgI2c .a) (bus [0] []) Request.zero)).trace = [.i2cBegin 0x68, .i2cEnd 0] ∧
    0x80#8 &&& cfgVl.vlMask ≠ 0x00#8 ∧ (after .i2cProbe (idleAt cfgVl (bus [0, 0, 0, 0] [0x80]) Request.zero)).res.r = 1#8 ∧
    0x7F#8 &&& cfgVl.vlMask = 0x00#8 ∧ (after .i2cProbe (idleAt cfgVl (bus [0, 0] [0x7F]) Request.zero)).res.r = 0#8 := by
  decide

/-- The lowest and the highest weekday bit of chip C. -/
theorem witness_timeDecodeC :
    ((0xFF#8 &&& FieldMasks.table.wdayHot).getLsbD 0 = true ∧ ∀ j, j < 0 → (0xFF#8 : Byte).getLsbD j = false) ∧
    ((0x40#8 &&& FieldMasks.table.wdayHot).getLsbD 6 = true ∧
      ∀ j, j < 6 → (0x40#8 &&& FieldMasks.table.wdayHot).getLsbD j = false) := by decide

/-- The length register at the edges of the clauses of both statements of `TIME.GET`: 7, 8; 1, 6; 0, 9. -/
theorem witness_timeGetLengths :
    [7, 8].all (fun k => decide (7 ≤ { cfg3W with burstRdLen := k }.burstRdLen) && decide (k ≤ 8)) = true ∧
    [1, 6].all (fun k => decide (1 ≤ { cfg3W with burstRdLen := k }.burstRdLen) && decide (k ≤ 6)) = true ∧
    [0, 9].all (fun k => decide ({ cfg3W with burstRdLen := k }.burstRdLen = 0 ∨ 8 < k)) = true ∧
    (cfg3W.chip = .w3 ∧ (cfgI2c .a).chip ≠ .w3) := by decide

/-- The edges of the year range on every chip variant. -/
theorem witness_timeCodecRoundTrip :
    (timed t3).t.inRange 0 199 ∧ (timed { t3 with year := 0 }).t.inRange 0 199 ∧
    (timed { t2 with year := 99 }).t.inRange 0 99 ∧ (timed { t2 with year := 0 }).t.inRange 0 99 ∧
    (timed { t2 with year := 199 }).t.inRange 100 199 ∧ cfg3W.masks = FieldMasks.table := by
  unfold CivilTime.inRange; decide

/-- The edges of the two ranges of rate numbers, with the selector bit of R6. -/
theorem witness_alarmRoundTrips :
    cfg3W.selBit = 6 ∧ (timed t1).t.inRange 0 511 ∧ (timed t2).t.inRange 0 511 ∧
    [0#3, 5#3].all (fun c => decide (c.toNat ≤ 5) && decide (c.toNat ∈ [0, 2, 3, 4, 5])) = true := by
  unfold CivilTime.inRange; decide

/-- Each clause of the day/date decode: disabled, date selected, weekdays selected. -/
theorem witness_dayDateAlarmDecode :
    (0x80#8 : Byte).getLsbD 7 = true ∧ (0x7F#8 : Byte).getLsbD 7 = false ∧
    { Request.zero with c := true }.c = cfg3W.ddSelDate ∧ { Request.zero with c := false }.c ≠ cfg3W.ddSelDate := by decide

/-- The day/date records of the clauses: date only, weekdays only, both, neither, each in range. -/
theorem witness_dayDateAlarmRoundTrip :
    AlarmDD.inRange ⟨some 59, some 23, some 31, none⟩ ∧ AlarmDD.inRange ⟨some 0, some 0, none, some 127⟩ ∧
    AlarmDD.inRange ⟨none, some 7, some 1, some 0⟩ ∧ AlarmDD.inRange AlarmDD.off := by
  refine ⟨?_, ?_, ?_, ?_⟩ <;> refine ⟨?_, ?_, ?_, ?_⟩ <;> rintro v h <;> cases h <;> decide

/-- A byte outside the trickle-charger table, and the table split at its third row. -/
theorem witness_trickleChargerDecode :
    0xA8#8 ∉ cfg3W.tcsTable.map Prod.fst ∧
    cfg3W.tcsTable = [(0xA5#8, 1), (0xA6#8, 2)] ++ (0xA7#8, 3) :: [(0xA9#8, 4), (0xAA#8, 5), (0xAB#8, 6)] ∧
    0xA7#8 ∉ [((0xA5#8 : Byte), (1 : Fin 7)), (0xA6#8, 2)].map Prod.fst ∧ cfg3W.tcsTable = tcsDefault := by decide

/-- The two stop values that make `c XOR RUN_STOP_VALUE` a boolean. -/
theorem witness_runningState :
    { cfgI2c .b with runStopValue := 0x00 }.runStopValue = 0x00#8 ∧ (cfgI2c .a).runStopValue = 0x01#8 := by decide

theorem witness_flags :
    (after .flagEval (opAt cfg3W 0x60 0)).status.wrNeeded = false ∧
    0x03#8 &&& 0x01#8 ≠ 0x00#8 ∧ 0x02#8 &&& 0x01#8 = 0x00#8 := by decide

/-- The last index inside the RAM window and the first outside. -/
theorem witness_ramWindowAccess :
    (refAt .a (abc 55 0 false)).ports.a.toNat < (cfgI2c .a).ramSize ∧
    (cfgI2c .a).ramSize ≤ (refAt .a (abc 56 0 false)).ports.a.toNat := by decide
end Sys2Proof.Tests
end

section
/-! PROOF. The state after reset (R27), and the working registers, which carry nothing into an operation (R11). -/

namespace Sys2Proof.Machine

open Sys2Proof

/-! ### Reset -/

/-- Reset puts every element at its value of R27, whatever the configuration and the device. -/
theorem afterReset_atReset (c : Params) (e : Env) : AtReset (State.afterReset c e) :=
  ⟨rfl, rfl, rfl, rfl, rfl, rfl, rfl⟩

/-- The block is idle after reset and the three reset events account for its lines; a canonical device memory is the one
premise, since reset does not touch the device. -/
theorem afterReset_inv (c : Params) (e : Env) (h : e.mem.wf = true) : (State.afterReset c e).Inv :=
  ⟨rfl, rfl, rfl, rfl, rfl, rfl, fun _ => rfl, h⟩

/-- Settles O8: each element of R27 is a field of the reset state. -/
theorem stateAfterReset : Obligations.StateAfterReset :=
  ⟨fun c e => ⟨afterReset_atReset c e, rfl, rfl⟩, Params.standard, Env.quiet, rfl⟩

/-- Settles O9: `State.reset` is the case of the empty device memory. -/
theorem invariantHoldsAfterReset : Obligations.InvariantHoldsAfterReset :=
  ⟨afterReset_inv _ _ reset_mem_wf, afterReset_inv⟩

/-! ### The working registers carry nothing (R11) -/

/-- What `body` does, but for the working registers it leaves, does not depend on the working registers it finds. -/
def WorkBlind (body : State → State) : Prop :=
  ∀ u w, ∃ w', body (u.setWork w) = (body u).setWork w'

/-- The same for a step with a result, which does not depend on them either. -/
def WorkBlindRead {α : Type} (f : State → α × State) : Prop :=
  ∀ u w, ∃ w', f (u.setWork w) = ((f u).1, (f u).2.setWork w')

theorem workBlind_sendByte (v : Byte) : WorkBlind (State.sendByte v) := fun _ w =>
  ⟨⟨0, w.acc, 8⟩, by simp [sendByte_eq]⟩

theorem workBlindRead_serialRead : WorkBlindRead State.serialRead := fun u w =>
  ⟨⟨w.sr, packBits 0 0 (u.env.ahead 8), 8⟩, by simp [serialRead_eq]⟩

theorem workBlind_sendBytes (vs : List Byte) : WorkBlind (State.sendBytes vs) := by
  induction vs with
  | nil => exact fun _ w => ⟨w, rfl⟩
  | cons v vs ih =>
    intro u w
    obtain ⟨w', h⟩ := workBlind_sendByte v u w
    obtain ⟨w'', h'⟩ := ih (u.sendByte v) w'
    exact ⟨w'', by simp only [State.sendBytes, h, h']⟩

theorem workBlindRead_readMany {f : State → Byte × State} (hf : WorkBlindRead f) (n : Nat) :
    WorkBlindRead (State.readMany f n) := by
  induction n with
  | zero => exact fun _ w => ⟨w, rfl⟩
  | succ n ih =>
    intro u w
    obtain ⟨w', h⟩ := hf u w
    obtain ⟨w'', h'⟩ := ih (f u).2 w'
    exact ⟨w'', by simp only [State.readMany, h, h']⟩

theorem txnBegin_setWork (w : Work) (u : State) : (u.setWork w).txnBegin = u.txnBegin.setWork w := rfl

theorem txnEnd_setWork (w : Work) (u : State) : (u.setWork w).txnEnd = u.txnEnd.setWork w := rfl

theorem workBlindRead_w3Read (code : Byte) : WorkBlindRead (State.w3Read code) := fun u _ =>
  ⟨⟨0, packBits 0 0 (u.env.ahead 8), 8⟩, by simp [w3Read_eq]⟩

theorem workBlind_w3Write (code v : Byte) : WorkBlind (State.w3Write code v) := fun _ w =>
  ⟨⟨0, w.acc, 8⟩, by simp [w3Write_eq]⟩

theorem workBlindRead_w3BurstRead (cmd : Byte) (n : Nat) : WorkBlindRead (State.w3BurstRead cmd n) := by
  intro u w
  obtain ⟨w', h⟩ := workBlind_sendByte cmd u.txnBegin w
  obtain ⟨w'', h'⟩ := workBlindRead_readMany workBlindRead_serialRead n (u.txnBegin.sendByte cmd) w'
  exact ⟨w'', by simp only [State.w3BurstRead, txnBegin_setWork, h, h', txnEnd_setWork]⟩

theorem workBlind_w3BurstWrite (cmd : Byte) (vs : List Byte) : WorkBlind (State.w3BurstWrite cmd vs) := by
  intro u w
  obtain ⟨w', h⟩ := workBlind_sendByte cmd u.txnBegin w
  obtain ⟨w'', h'⟩ := workBlind_sendBytes vs (u.txnBegin.sendByte cmd) w'
  exact ⟨w'', by simp only [State.w3BurstWrite, txnBegin_setWork, h, h', txnEnd_setWork]⟩

theorem workBlindRead_i2cRead (a : Byte) : WorkBlindRead (State.i2cRead a) := fun _ w => ⟨w, rfl⟩

theorem workBlind_i2cWrite (a v : Byte) : WorkBlind (State.i2cWrite a v) := fun _ w => ⟨w, rfl⟩

theorem workBlindRead_i2cReadByte : WorkBlindRead State.i2cReadByte := fun _ w => ⟨w, rfl⟩

theorem workBlindRead_i2cBurstRead (a : Byte) (n : Nat) : WorkBlindRead (State.i2cBurstRead a n) := fun u w =>
  workBlindRead_readMany workBlindRead_i2cReadByte n ((u.i2cAddress a).emit (.i2cRequest u.cfg.devAddr n)) w

theorem i2cWriteBytes_setWork (vs : List Byte) (w : Work) (u : State) :
    State.i2cWriteBytes vs (u.setWork w) = (State.i2cWriteBytes vs u).setWork w := by
  simp only [i2cWriteBytes_eq, emits_setWork]

theorem workBlind_i2cBurstWrite (a : Byte) (vs : List Byte) : WorkBlind (State.i2cBurstWrite a vs) := fun u w =>
  ⟨w, congrArg (fun v => v.i2cEnd.2)
    (i2cWriteBytes_setWork vs w ((u.emit (.i2cBegin u.cfg.devAddr)).emit (.i2cWrite a)))⟩

theorem workBlind_writeImage (img : List (Byte × Byte)) : WorkBlind (State.writeImage img) := by
  induction img with
  | nil => exact fun _ w => ⟨w, rfl⟩
  | cons x img ih => exact fun u w => ih (u.i2cWrite x.1 x.2) w

theorem workBlindRead_voltageLowCheck : WorkBlindRead State.voltageLowCheck := by
  intro u w
  obtain ⟨w', h⟩ := workBlindRead_i2cRead u.cfg.regVl u w
  cases hv : anyBitSet (u.i2cRead u.cfg.regVl).1 u.cfg.vlMask with
  | true =>
    obtain ⟨w'', h'⟩ := workBlind_writeImage u.cfg.initImage (u.i2cRead u.cfg.regVl).2 w'
    exact ⟨w'', by simp only [State.voltageLowCheck, setWork_cfg, h, hv, h', if_true]⟩
  | false => exact ⟨w', by simp only [State.voltageLowCheck, setWork_cfg, h, hv, Bool.false_eq_true, if_false]⟩

theorem workBlindRead_memRead (a : Byte) : WorkBlindRead (State.memRead a) := by
  intro u w
  cases hc : u.cfg.chip with
  | w3 => simpa only [State.memRead, setWork_cfg, hc] using workBlindRead_w3Read (readCode a) u w
  | a | b | c | d => simpa only [State.memRead, setWork_cfg, hc] using workBlindRead_i2cRead a u w

theorem workBlind_memWrite (a v : Byte) : WorkBlind (State.memWrite a v) := by
  intro u w
  cases hc : u.cfg.chip with
  | w3 => simpa only [State.memWrite, setWork_cfg, hc] using workBlind_w3Write a v u w
  | a | b | c | d => simpa only [State.memWrite, setWork_cfg, hc] using workBlind_i2cWrite a v u w

theorem workBlindRead_timeBurstRead : WorkBlindRead State.timeBurstRead := by
  intro u w
  cases hc : u.cfg.chip with
  | w3 =>
    simpa only [State.timeBurstRead, setWork_cfg, hc] using
      workBlindRead_w3BurstRead u.cfg.burstRd u.cfg.burstRdLen u w
  | a | b | c | d =>
    simpa only [State.timeBurstRead, setWork_cfg, hc] using workBlindRead_i2cBurstRead u.cfg.timeBase 7 u w

theorem workBlind_timeBurstWrite (q : Buf) : WorkBlind (State.timeBurstWrite q) := by
  intro u w
  cases hc : u.cfg.chip with
  | w3 =>
    simpa only [State.timeBurstWrite, setWork_cfg, hc] using workBlind_w3BurstWrite u.cfg.burstWr (q.first 8) u w
  | a | b | c | d =>
    simpa only [State.timeBurstWrite, setWork_cfg, hc] using workBlind_i2cBurstWrite u.cfg.timeBase (q.first 7) u w

theorem workBlindRead_flagGet (reg mask : Byte) : WorkBlindRead (State.flagGet reg mask) := by
  intro u w
  obtain ⟨w', h⟩ := workBlindRead_memRead reg u w
  exact ⟨w', by simp only [State.flagGet, h]⟩

theorem workBlind_flagSet (reg mask : Byte) (want : Bool) : WorkBlind (State.flagSet reg mask want) := by
  intro u w
  obtain ⟨w', h⟩ := workBlindRead_memRead reg u w
  cases hd : flagDiffers (u.memRead reg).1 mask want with
  | true =>
    obtain ⟨w'', h'⟩ := workBlind_memWrite reg (flagUpdate (u.memRead reg).1 mask want) (u.memRead reg).2 w'
    exact ⟨w'', by simp only [State.flagSet, h, hd, if_true, h']; rfl⟩
  | false => exact ⟨w', by simp only [State.flagSet, h, hd, Bool.false_eq_true, if_false]; rfl⟩

/-- The result of a blind step presented on `r`. -/
theorem workBlind_thenSetR {α : Type} {f : State → α × State} (r : Params → α → Byte) (hf : WorkBlindRead f) :
    WorkBlind fun u => (f u).2.setR (r u.cfg (f u).1) := by
  intro u w
  obtain ⟨w', h⟩ := hf u w
  exact ⟨w', by simp only [h]; rfl⟩

/-- The bytes of a blind step presented on `rbuf`. -/
theorem workBlind_thenSetRbuf {f : State → List Byte × State} (hf : WorkBlindRead f) :
    WorkBlind fun u => (f u).2.setRbuf (Buf.ofList (f u).1) := by
  intro u w
  obtain ⟨w', h⟩ := hf u w
  exact ⟨w', by simp only [h]; rfl⟩

/-- The two states run `i` alike: their next states differ at most in the working registers. -/
def EndsAlike (i : Instr) : Prop :=
  ∀ (s : State) (w : Work), ∃ t u, exec i s = .next t ∧ exec i (s.setWork w) = .next u ∧ u.setWork t.work = t

/-- An operation with a blind body, accepted or refused for reasons other than the working registers. -/
theorem endsAlike_of_workBlind {i : Instr} {ok : State → Bool} {body : State → State}
    (he : ∀ s, exec i s = s.operate (ok s) body) (hb : WorkBlind body)
    (hok : ∀ s w, ok (s.setWork w) = ok s := by intros; rfl) : EndsAlike i := by
  intro s w
  rw [he, he, hok]
  cases ok s with
  | false => exact ⟨s.refuse, (s.setWork w).refuse, rfl, rfl, rfl⟩
  | true =>
    obtain ⟨w', h⟩ := hb s.accept w
    refine ⟨(body s.accept).finish, ((body s.accept).setWork w').finish, rfl, ?_, rfl⟩
    rw [operate_true, ← h]
    rfl

/-- A choice between two blind bodies that does not look at the working registers. -/
theorem workBlind_ite {c : State → Bool} {f g : State → State} (hc : ∀ u w, c (u.setWork w) = c u)
    (hf : WorkBlind f) (hg : WorkBlind g) : WorkBlind fun u => if c u then f u else g u := by
  intro u w
  simp only [hc]
  cases c u with
  | true => exact hf u w
  | false => exact hg u w

theorem workBlind_timeGet :
    WorkBlind fun u => (u.timeBurstRead.2.setRbuf (Buf.ofList u.timeBurstRead.1)).decodeTime u.cfg.chip
      (Buf.ofList u.timeBurstRead.1) := by
  intro u w
  obtain ⟨w', h⟩ := workBlindRead_timeBurstRead u w
  exact ⟨w', by simp only [h]; rfl⟩

theorem workBlind_timeSet :
    WorkBlind fun u => (u.setRbuf (timeEncode u.cfg.chip u.cfg u.ports.t)).timeBurstWrite
      (timeEncode u.cfg.chip u.cfg u.ports.t) := fun u w =>
  let bytes := timeEncode u.cfg.chip u.cfg u.ports.t
  workBlind_timeBurstWrite bytes (u.setRbuf bytes) w

/-- The end of an empty transmission with its `present` bit, as the probe leaves it before its
voltage-low check (R115). -/
def State.probed (u : State) : State :=
  let e := (u.emit (.i2cBegin u.cfg.devAddr)).i2cEnd
  e.2.setStatus { e.2.status with present := acknowledged e.1 }

theorem workBlind_probe :
    WorkBlind fun u =>
      if acknowledged (u.emit (.i2cBegin u.cfg.devAddr)).i2cEnd.1 && checksVoltage u.cfg.chip then
        u.probed.voltageLowCheck.2.setR u.probed.voltageLowCheck.1
      else u.probed :=
  workBlind_ite (fun _ _ => rfl)
    (fun u => workBlind_thenSetR (fun _ v => v) workBlindRead_voltageLowCheck u.probed)
    fun _ w => ⟨w, rfl⟩

theorem workBlind_ramRd :
    WorkBlind fun u =>
      if ramOutOfRange u.cfg u.ports.a then
        (u.setR u.cfg.ramSentinel.toByte).setStatus { u.status with oor := true }
      else (u.memRead (ramAddr u.cfg u.ports.a)).2.setR (u.memRead (ramAddr u.cfg u.ports.a)).1 :=
  workBlind_ite (fun _ _ => rfl) (fun _ w => ⟨w, rfl⟩)
    fun u => workBlind_thenSetR (fun _ v => v) (workBlindRead_memRead (ramAddr u.cfg u.ports.a)) u

theorem workBlind_ramWr :
    WorkBlind fun u =>
      if ramOutOfRange u.cfg u.ports.a then u.setStatus { u.status with oor := true }
      else u.memWrite (ramAddr u.cfg u.ports.a) u.ports.b :=
  workBlind_ite (fun _ _ => rfl) (fun _ w => ⟨w, rfl⟩)
    fun u => workBlind_memWrite (ramAddr u.cfg u.ports.a) u.ports.b u

/-- Each body is a composition of blind steps; the pure ones do not name the working registers at all. -/
theorem endsAlike (i : Instr) : EndsAlike i := by
  cases i with
  | bcdDec => exact endsAlike_of_workBlind exec_bcdDec fun _ w => ⟨w, rfl⟩
  | bcdEnc => exact endsAlike_of_workBlind exec_bcdEnc fun _ w => ⟨w, rfl⟩
  | serWrb => exact endsAlike_of_workBlind exec_serWrb fun u => workBlind_sendByte u.ports.a u
  | serRdb => exact endsAlike_of_workBlind exec_serRdb (workBlind_thenSetR (fun _ v => v) workBlindRead_serialRead)
  | txnBegin => exact endsAlike_of_workBlind exec_txnBegin fun _ w => ⟨w, rfl⟩
  | txnEnd => exact endsAlike_of_workBlind exec_txnEnd fun _ w => ⟨w, rfl⟩
  | w3Rd =>
    exact endsAlike_of_workBlind exec_w3Rd
      (workBlind_thenSetR (fun _ v => v) fun u => workBlindRead_w3Read u.ports.a u)
  | w3Wr => exact endsAlike_of_workBlind exec_w3Wr fun u => workBlind_w3Write u.ports.a u.ports.b u
  | w3Brd =>
    exact endsAlike_of_workBlind exec_w3Brd
      (workBlind_thenSetRbuf fun u => workBlindRead_w3BurstRead u.ports.a u.ports.n.toNat u)
  | w3Bwr =>
    exact endsAlike_of_workBlind exec_w3Bwr
      fun u => workBlind_w3BurstWrite u.ports.a (u.ports.buf.first u.ports.n.toNat) u
  | i2cRd =>
    exact endsAlike_of_workBlind exec_i2cRd
      (workBlind_thenSetR (fun _ v => v) fun u => workBlindRead_i2cRead u.ports.a u)
  | i2cWr => exact endsAlike_of_workBlind exec_i2cWr fun u => workBlind_i2cWrite u.ports.a u.ports.b u
  | i2cBrd =>
    exact endsAlike_of_workBlind exec_i2cBrd
      (workBlind_thenSetRbuf fun u => workBlindRead_i2cBurstRead u.ports.a u.ports.n.toNat u)
  | i2cBwr =>
    exact endsAlike_of_workBlind exec_i2cBwr
      fun u => workBlind_i2cBurstWrite u.ports.a (u.ports.buf.first u.ports.n.toNat) u
  | i2cProbe => exact endsAlike_of_workBlind exec_i2cProbe workBlind_probe
  | timeDec3W => exact endsAlike_of_workBlind exec_timeDec3W fun _ w => ⟨w, rfl⟩
  | timeDecA => exact endsAlike_of_workBlind exec_timeDecA fun _ w => ⟨w, rfl⟩
  | timeDecB => exact endsAlike_of_workBlind exec_timeDecB fun _ w => ⟨w, rfl⟩
  | timeDecC => exact endsAlike_of_workBlind exec_timeDecC fun _ w => ⟨w, rfl⟩
  | timeDecD => exact endsAlike_of_workBlind exec_timeDecD fun _ w => ⟨w, rfl⟩
  | timeGet => exact endsAlike_of_workBlind exec_timeGet workBlind_timeGet
  | timeSet => exact endsAlike_of_workBlind exec_timeSet workBlind_timeSet
  | timeEnc3W => exact endsAlike_of_workBlind exec_timeEnc3W fun _ w => ⟨w, rfl⟩
  | timeEncA => exact endsAlike_of_workBlind exec_timeEncA fun _ w => ⟨w, rfl⟩
  | timeEncB => exact endsAlike_of_workBlind exec_timeEncB fun _ w => ⟨w, rfl⟩
  | timeEncC => exact endsAlike_of_workBlind exec_timeEncC fun _ w => ⟨w, rfl⟩
  | timeEncD => exact endsAlike_of_workBlind exec_timeEncD fun _ w => ⟨w, rfl⟩
  | alm4Dec => exact endsAlike_of_workBlind exec_alm4Dec fun _ w => ⟨w, rfl⟩
  | alm4Enc => exact endsAlike_of_workBlind exec_alm4Enc fun _ w => ⟨w, rfl⟩
  | alm3Dec => exact endsAlike_of_workBlind exec_alm3Dec fun _ w => ⟨w, rfl⟩
  | alm3Enc => exact endsAlike_of_workBlind exec_alm3Enc fun _ w => ⟨w, rfl⟩
  | almdDec => exact endsAlike_of_workBlind exec_almdDec fun _ w => ⟨w, rfl⟩
  | almdEnc => exact endsAlike_of_workBlind exec_almdEnc fun _ w => ⟨w, rfl⟩
  | tcsDec => exact endsAlike_of_workBlind exec_tcsDec fun _ w => ⟨w, rfl⟩
  | flagEval => exact endsAlike_of_workBlind exec_flagEval fun _ w => ⟨w, rfl⟩
  | flagSet => exact endsAlike_of_workBlind exec_flagSet fun u => workBlind_flagSet u.ports.a u.ports.b u.ports.c u
  | flagGet =>
    exact endsAlike_of_workBlind exec_flagGet
      (workBlind_thenSetR (fun _ f => bitByte f) fun u => workBlindRead_flagGet u.ports.a u.ports.b u)
  | ramRd => exact endsAlike_of_workBlind exec_ramRd workBlind_ramRd
  | ramWr => exact endsAlike_of_workBlind exec_ramWr workBlind_ramWr
  | regRd =>
    exact endsAlike_of_workBlind exec_regRd
      (workBlind_thenSetR (fun _ v => v) fun u => workBlindRead_memRead u.ports.a u)
  | regWr => exact endsAlike_of_workBlind exec_regWr fun u => workBlind_memWrite u.ports.a u.ports.b u
  | runGet =>
    exact endsAlike_of_workBlind exec_runGet
      (workBlind_thenSetR (fun p f => bitByte (bitByte f != p.runStopValue))
        fun u => workBlindRead_flagGet u.cfg.runReg u.cfg.runMask u)
  | runSet =>
    exact endsAlike_of_workBlind exec_runSet
      fun u => workBlind_flagSet u.cfg.runReg u.cfg.runMask (runWanted u.cfg u.ports.c) u
  | ageDec => exact endsAlike_of_workBlind exec_ageDec fun _ w => ⟨w, rfl⟩
  | tempDec => exact endsAlike_of_workBlind exec_tempDec fun _ w => ⟨w, rfl⟩

/-- Settles O12: every body is blind to the working registers, and so are acceptance and refusal. -/
theorem workingRegistersCarryNothing : Obligations.WorkingRegistersCarryNothing :=
  endsAlike

end Sys2Proof.Machine
end

section
/-! PROOF. A frame for every operation: the transport its body uses, the result ports it presents, how far it moves
the free-value counter (R13, R14, R33, R141, R210). -/

namespace Sys2Proof.Machine

open Sys2Proof

/-! ### The events of each transport -/

/-- Every event belongs to the transport of the chip: the pins on 3W, the I2C primitives on A to D (R33). -/
def OnTransport (v : Chip) (evs : List Event) : Prop := ∀ e ∈ evs, isPinEvent e = decide (v = .w3)

theorem onTransport_nil (v : Chip) : OnTransport v [] := fun _ h => absurd h List.not_mem_nil

theorem onTransport_append {v : Chip} {as bs : List Event} (ha : OnTransport v as) (hb : OnTransport v bs) :
    OnTransport v (as ++ bs) := fun e h => (List.mem_append.1 h).elim (ha e) (hb e)

theorem onTransport_of_all_pin {v : Chip} (hc : v = .w3) {evs : List Event} (h : evs.all isPinEvent = true) :
    OnTransport v evs := fun e he => by
  rw [List.all_eq_true.1 h e he, decide_eq_true hc]

theorem onTransport_of_all_not_pin {v : Chip} (hc : v ≠ .w3) {evs : List Event}
    (h : evs.all (fun e => !isPinEvent e) = true) : OnTransport v evs := fun e he => by
  rw [decide_eq_false hc]
  simpa using List.all_eq_true.1 h e he

theorem sendEvents_all_pin (settle : Nat) (v : Byte) : (sendEvents settle v).all isPinEvent = true := rfl

theorem receiveEvents_all_pin (settle : Nat) (bits : List Bool) :
    (receiveEvents settle bits).all isPinEvent = true := by
  simp [receiveEvents, isPinEvent, pulseEvents]

theorem w3WriteEvents_all_pin (p : Params) (cmd : Byte) (data : List Byte) :
    (w3WriteEvents p cmd data).all isPinEvent = true := by
  simp only [w3WriteEvents, List.all_append, List.all_flatMap, sendEvents_all_pin]
  simp [frameOpen, frameClose, isPinEvent]

theorem w3ReadEvents_all_pin (p : Params) (cmd : Byte) (answers : List (List Bool)) :
    (w3ReadEvents p cmd answers).all isPinEvent = true := by
  simp only [w3ReadEvents, List.all_append, List.all_flatMap, sendEvents_all_pin, receiveEvents_all_pin]
  simp [frameOpen, frameClose, isPinEvent]

theorem i2cWriteEvents_all_not_pin (p : Params) (a : Byte) (data : List Byte) (st : Nat) :
    (i2cWriteEvents p a data st).all (fun e => !isPinEvent e) = true := by
  simp [i2cWriteEvents, isPinEvent]

theorem i2cReadEvents_all_not_pin (p : Params) (a : Byte) (st : Nat) (data : List Byte) :
    (i2cReadEvents p a st data).all (fun e => !isPinEvent e) = true := by
  simp [i2cReadEvents, isPinEvent]

theorem onTransport_registerRead {p : Params} {a v : Byte} {evs : List Event} (h : IsRegisterRead p a v evs) :
    OnTransport p.chip evs := by
  unfold IsRegisterRead at h
  split at h
  · rename_i hc
    obtain ⟨bits, -, rfl⟩ := h
    exact onTransport_of_all_pin hc (w3ReadEvents_all_pin ..)
  · rename_i hc
    obtain ⟨st, rfl⟩ := h
    exact onTransport_of_all_not_pin hc (i2cReadEvents_all_not_pin ..)

theorem onTransport_registerWrite {p : Params} {a v : Byte} {evs : List Event} (h : IsRegisterWrite p a v evs) :
    OnTransport p.chip evs := by
  unfold IsRegisterWrite at h
  split at h
  · rename_i hc
    exact onTransport_of_all_pin hc (h ▸ w3WriteEvents_all_pin ..)
  · rename_i hc
    obtain ⟨st, rfl⟩ := h
    exact onTransport_of_all_not_pin hc (i2cWriteEvents_all_not_pin ..)

theorem onTransport_imageWritten {p : Params} {img : List (Byte × Byte)} {evs : List Event}
    (h : ImageWritten p img evs) : OnTransport p.chip evs := by
  induction img generalizing evs with
  | nil =>
    obtain rfl : evs = [] := h
    exact onTransport_nil _
  | cons x img ih =>
    obtain ⟨first, others, rfl, hfirst, hothers⟩ := h
    exact onTransport_append (onTransport_registerWrite hfirst) (ih hothers)

/-! ### Bodies that reach the device on the chip's transport alone -/

/-- `b` is `u` after events of the chip's own transport; on the I2C chips the working registers are as before (R13). -/
def UsesTransport (u b : State) : Prop :=
  ∃ evs, Performs u b evs ∧ OnTransport u.cfg.chip evs ∧ (u.cfg.chip ≠ .w3 → b.work = u.work)

/-- `UsesTransport` by a body that presents no result and draws no free value. -/
structure Carries (u b : State) : Prop where
  uses : UsesTransport u b
  res : b.res = u.res
  status : b.status = u.status
  draws : b.draws = u.draws

theorem usesTransport_refl (u : State) : UsesTransport u u := ⟨[], performs_refl u, onTransport_nil _, fun _ => rfl⟩

theorem usesTransport_trans {u v w : State} (h : UsesTransport u v) (k : UsesTransport v w) : UsesTransport u w := by
  obtain ⟨as, hp, ho, hw⟩ := h
  obtain ⟨bs, kp, ko, kw⟩ := k
  rw [hp.cfg] at ko kw
  exact ⟨as ++ bs, performs_trans hp kp, onTransport_append ho ko, fun hn => (kw hn).trans (hw hn)⟩

theorem carries_of_transports {u b : State} {evs : List Event} (ht : Transports u b evs)
    (ho : OnTransport u.cfg.chip evs) (hw : u.cfg.chip ≠ .w3 → b.work = u.work) : Carries u b :=
  ⟨⟨evs, ht.toPerforms, ho, hw⟩, ht.res, ht.status, ht.draws⟩

section
variable {u : State}

/-- Pin events on the 3-wire chip, whatever they leave in the working registers. -/
theorem carries_of_pin_events (hc : u.cfg.chip = .w3) {evs : List Event} (h : evs.all isPinEvent = true) (w : Work) :
    Carries u ((State.emits evs u).setWork w) :=
  carries_of_transports (transports_emits evs w u) (onTransport_of_all_pin hc h) fun hn => absurd hc hn

/-- I2C events on an I2C chip. -/
theorem carries_of_i2c_events (hc : u.cfg.chip ≠ .w3) {evs : List Event}
    (h : evs.all (fun e => !isPinEvent e) = true) : Carries u (State.emits evs u) :=
  carries_of_transports (transports_emits' evs u) (onTransport_of_all_not_pin hc h) fun _ => emits_work evs u

theorem carries_sendByte (hc : u.cfg.chip = .w3) (v : Byte) : Carries u (u.sendByte v) :=
  sendByte_eq v u ▸ carries_of_pin_events hc (sendEvents_all_pin ..) _

theorem carries_serialRead (hc : u.cfg.chip = .w3) : Carries u u.serialRead.2 :=
  serialRead_eq u ▸ carries_of_pin_events hc (receiveEvents_all_pin ..) _

theorem carries_txnBegin (hc : u.cfg.chip = .w3) : Carries u u.txnBegin :=
  carries_of_pin_events (evs := frameOpen u.cfg) hc rfl u.work

theorem carries_txnEnd (hc : u.cfg.chip = .w3) : Carries u u.txnEnd :=
  carries_of_pin_events (evs := frameClose u.cfg) hc rfl u.work

theorem carries_w3Read (hc : u.cfg.chip = .w3) (code : Byte) : Carries u (u.w3Read code).2 :=
  w3Read_eq code u ▸ carries_of_pin_events hc (w3ReadEvents_all_pin ..) _

theorem carries_w3Write (hc : u.cfg.chip = .w3) (code v : Byte) : Carries u (u.w3Write code v) :=
  w3Write_eq code v u ▸ carries_of_pin_events hc (w3WriteEvents_all_pin ..) _

theorem carries_w3BurstRead (hc : u.cfg.chip = .w3) (cmd : Byte) (n : Nat) : Carries u (u.w3BurstRead cmd n).2 := by
  obtain ⟨answers, bytes, w, -, -, h⟩ := w3BurstRead_eq cmd n u
  rw [h]
  exact carries_of_pin_events hc (w3ReadEvents_all_pin ..) w

theorem carries_w3BurstWrite (hc : u.cfg.chip = .w3) (cmd : Byte) (vs : List Byte) :
    Carries u (u.w3BurstWrite cmd vs) := by
  obtain ⟨w, h⟩ := w3BurstWrite_eq cmd vs u
  rw [h]
  exact carries_of_pin_events hc (w3WriteEvents_all_pin ..) w

theorem carries_i2cRead (hc : u.cfg.chip ≠ .w3) (a : Byte) : Carries u (u.i2cRead a).2 := by
  obtain ⟨st, v, h⟩ := i2cRead_eq a u
  rw [h]
  exact carries_of_i2c_events hc (i2cReadEvents_all_not_pin ..)

theorem carries_i2cWrite (hc : u.cfg.chip ≠ .w3) (a v : Byte) : Carries u (u.i2cWrite a v) := by
  obtain ⟨st, h⟩ := i2cWrite_eq a v u
  rw [h]
  exact carries_of_i2c_events hc (i2cWriteEvents_all_not_pin ..)

theorem carries_i2cBurstRead (hc : u.cfg.chip ≠ .w3) (a : Byte) (n : Nat) : Carries u (u.i2cBurstRead a n).2 := by
  obtain ⟨st, bytes, -, h⟩ := i2cBurstRead_eq a n u
  rw [h]
  exact carries_of_i2c_events hc (i2cReadEvents_all_not_pin ..)

theorem carries_i2cBurstWrite (hc : u.cfg.chip ≠ .w3) (a : Byte) (vs : List Byte) :
    Carries u (u.i2cBurstWrite a vs) := by
  obtain ⟨st, h⟩ := i2cBurstWrite_eq a vs u
  rw [h]
  exact carries_of_i2c_events hc (i2cWriteEvents_all_not_pin ..)

/-- The empty transmission of the probe (R115). -/
theorem carries_emptyTransmission (hc : u.cfg.chip ≠ .w3) :
    Carries u (u.emit (.i2cBegin u.cfg.devAddr)).i2cEnd.2 :=
  carries_of_i2c_events (evs := [.i2cBegin _, .i2cEnd _]) hc rfl

theorem carries_voltageLowCheck (hc : u.cfg.chip ≠ .w3) : Carries u u.voltageLowCheck.2 := by
  obtain ⟨st, v, writes, ht, hw, hlow, hok⟩ := transports_voltageLowCheck u hc
  refine carries_of_transports ht
    (onTransport_append (onTransport_of_all_not_pin hc (i2cReadEvents_all_not_pin ..)) ?_) fun _ => hw
  cases hv : anyBitSet v u.cfg.vlMask with
  | true => exact onTransport_imageWritten (hlow hv).2
  | false => exact (hok hv).2 ▸ onTransport_nil _

theorem carries_memRead (a : Byte) : Carries u (u.memRead a).2 := by
  obtain ⟨evs, hr, ht, hw⟩ := transports_memRead a u
  exact carries_of_transports ht (onTransport_registerRead hr) hw

theorem carries_memWrite (a v : Byte) : Carries u (u.memWrite a v) := by
  obtain ⟨evs, hr, ht, hw⟩ := transports_memWrite a v u
  exact carries_of_transports ht (onTransport_registerWrite hr) hw

theorem carries_timeBurstRead : Carries u u.timeBurstRead.2 := by
  obtain ⟨evs, ht, hpins, hbus⟩ := transports_timeBurstRead u
  by_cases hc : u.cfg.chip = .w3
  · obtain ⟨-, answers, -, rfl⟩ := hpins hc
    exact carries_of_transports ht (onTransport_of_all_pin hc (w3ReadEvents_all_pin ..)) fun hn => absurd hc hn
  · obtain ⟨-, hw, st, rfl⟩ := hbus hc
    exact carries_of_transports ht (onTransport_of_all_not_pin hc (i2cReadEvents_all_not_pin ..)) fun _ => hw

theorem carries_timeBurstWrite (q : Buf) : Carries u (u.timeBurstWrite q) := by
  obtain ⟨evs, ht, hpins, hbus⟩ := transports_timeBurstWrite q u
  by_cases hc : u.cfg.chip = .w3
  · obtain rfl := hpins hc
    exact carries_of_transports ht (onTransport_of_all_pin hc (w3WriteEvents_all_pin ..)) fun hn => absurd hc hn
  · obtain ⟨hw, st, rfl⟩ := hbus hc
    exact carries_of_transports ht (onTransport_of_all_not_pin hc (i2cWriteEvents_all_not_pin ..)) fun _ => hw

end

/-! ### What an accepted operation has presented -/

/-- `b` is reached from the accepted operation of `s` on the chip's transport, shows 0 on every port outside `ps`, and
has drawn `k` free weekdays. -/
structure Presented (ps : List ResultPort) (k : Nat) (s b : State) : Prop where
  uses : UsesTransport s.accept b
  zero : ∀ p, p ∉ ps → b.portIsZero p = true
  draws : b.draws = s.draws + k

/-- The ports show the result and status fields alone. -/
theorem portIsZero_congr {b c : State} (hr : c.res = b.res) (hs : c.status = b.status) (p : ResultPort) :
    c.portIsZero p = b.portIsZero p := by
  cases p <;> simp only [State.portIsZero, hr, hs]

theorem portIsZero_accept (s : State) (p : ResultPort) : s.accept.portIsZero p = true := by
  cases p <;> rfl

theorem portIsZero_refuse (s : State) (p : ResultPort) : s.refuse.portIsZero p = true := by
  cases p <;> rfl

section
variable {ps : List ResultPort} {k : Nat} {s b c : State}

theorem presented_accept (ps : List ResultPort) (s : State) : Presented ps 0 s s.accept :=
  ⟨usesTransport_refl _, fun p _ => portIsZero_accept s p, rfl⟩

theorem presented_carries (h : Presented ps k s b) (hc : Carries b c) : Presented ps k s c :=
  ⟨usesTransport_trans h.uses hc.uses, fun p hp => (portIsZero_congr hc.res hc.status p).trans (h.zero p hp),
    hc.draws.trans h.draws⟩

/-- New results on the operation's own ports. -/
theorem presented_results (h : Presented ps k s b) (r : Results) (st : Status)
    (hz : ∀ p, p ∉ ps → State.portIsZero { b with res := r, status := st } p = b.portIsZero p) :
    Presented ps k s { b with res := r, status := st } := by
  obtain ⟨evs, hp, ho, hw⟩ := h.uses
  exact ⟨⟨evs, ⟨hp.cfg, hp.ports, hp.host, hp.resetIn, hp.start, hp.trace, hp.pins, hp.env⟩, ho, hw⟩,
    fun p hn => (hz p hn).trans (h.zero p hn), h.draws⟩

theorem presented_setR (h : Presented ps k s b) (hm : .r ∈ ps) (v : Byte) :
    Presented ps k s (b.setR v) :=
  presented_results h _ _ fun p hp => by
    cases p with
    | r => exact absurd hm hp
    | _ => rfl

theorem presented_setR16 (h : Presented ps k s b) (hm : .r16 ∈ ps) (v : Word16) :
    Presented ps k s (b.setR16 v) :=
  presented_results h _ _ fun p hp => by
    cases p with
    | r16 => exact absurd hm hp
    | _ => rfl

theorem presented_setRbuf (h : Presented ps k s b) (hm : .rbuf ∈ ps) (q : Buf) :
    Presented ps k s (b.setRbuf q) :=
  presented_results h _ _ fun p hp => by
    cases p with
    | rbuf => exact absurd hm hp
    | _ => rfl

theorem presented_setAlarm (h : Presented ps k s b)
    (hrrate : .rrate ∈ ps) (hrt : .rt ∈ ps) (hrateInvalid : .rateInvalid ∈ ps)
    (code : BitVec 3) (t : CivilTime) (bad : Bool) :
    Presented ps k s (b.setAlarm code t bad) :=
  presented_results h _ _ fun p hp => by
    cases p with
    | rrate => exact absurd hrrate hp
    | rt => exact absurd hrt hp
    | rateInvalid => exact absurd hrateInvalid hp
    | _ => rfl

theorem presented_setRdd (h : Presented ps k s b) (hm : .rdd ∈ ps) (d : AlarmDD) :
    Presented ps k s { b with res := { b.res with rdd := d } } :=
  presented_results h _ _ fun p hp => by
    cases p with
    | rdd => exact absurd hm hp
    | _ => rfl

theorem presented_setRbufRsel (h : Presented ps k s b) (hrbuf : .rbuf ∈ ps) (hrsel : .rsel ∈ ps)
    (q : Buf) (sel : Bool) :
    Presented ps k s { b with res := { b.res with rbuf := q, rsel := sel } } :=
  presented_results h _ _ fun p hp => by
    cases p with
    | rbuf => exact absurd hrbuf hp
    | rsel => exact absurd hrsel hp
    | _ => rfl

theorem presented_setWrNeeded (h : Presented ps k s b) (hm : .wrNeeded ∈ ps) (x : Bool) :
    Presented ps k s (b.setStatus { b.status with wrNeeded := x }) :=
  presented_results h _ _ fun p hp => by
    cases p with
    | wrNeeded => exact absurd hm hp
    | _ => rfl

theorem presented_setOor (h : Presented ps k s b) (hm : .oor ∈ ps) (x : Bool) :
    Presented ps k s (b.setStatus { b.status with oor := x }) :=
  presented_results h _ _ fun p hp => by
    cases p with
    | oor => exact absurd hm hp
    | _ => rfl

theorem presented_setRateInvalid (h : Presented ps k s b) (hm : .rateInvalid ∈ ps) (x : Bool) :
    Presented ps k s (b.setStatus { b.status with rateInvalid := x }) :=
  presented_results h _ _ fun p hp => by
    cases p with
    | rateInvalid => exact absurd hm hp
    | _ => rfl

theorem presented_setPresent (h : Presented ps k s b) (hm : .present ∈ ps) (x : Bool) :
    Presented ps k s (b.setStatus { b.status with present := x }) :=
  presented_results h _ _ fun p hp => by
    cases p with
    | present => exact absurd hm hp
    | _ => rfl

/-- A decode presents `rt`; in the layout of chip C it draws one free weekday (R141; log 9). -/
theorem presented_decodeTime (h : Presented ps k s b) (hrt : .rt ∈ ps) (v : Chip) (q : Buf) {j : Nat}
    (hj : (k + if v = .c then 1 else 0) = j) : Presented ps j s (b.decodeTime v q) where
  uses := by
    obtain ⟨evs, hp, ho, hw⟩ := h.uses
    exact ⟨evs, performs_decodeTime hp v q, ho, hw⟩
  zero p hp := by
    rw [← h.zero p hp]
    cases p with
    | rt => exact absurd hrt hp
    | _ => rfl
  draws := by
    rw [decodeTime_draws, h.draws, ← hj]
    split <;> rfl

/-- An accepted operation that reaches the device and presents nothing. -/
theorem presented_carried (hc : Carries s.accept b) : Presented ps 0 s b :=
  presented_carries (presented_accept ps s) hc

/-- An accepted operation that reads the device and presents the byte read. -/
theorem presented_readR (hc : Carries s.accept b) (hm : .r ∈ ps) (v : Byte) : Presented ps 0 s (b.setR v) :=
  presented_setR (presented_carried hc) hm v

/-- An accepted operation that reads the device and presents the bytes read. -/
theorem presented_readRbuf (hc : Carries s.accept b) (hm : .rbuf ∈ ps) (q : Buf) : Presented ps 0 s (b.setRbuf q) :=
  presented_setRbuf (presented_carried hc) hm q

theorem presented_ite {ok : Bool} (hb : ok = true → Presented ps k s b) (hc : ok = false → Presented ps k s c) :
    Presented ps k s (if ok then b else c) := by
  cases ok with
  | true => exact hb rfl
  | false => exact hc rfl

theorem presented_flagSet (h : Presented ps k s b) (hm : .wrNeeded ∈ ps) (reg mask : Byte) (want : Bool) :
    Presented ps k s (b.flagSet reg mask want) := by
  have hread := presented_carries h (carries_memRead reg)
  exact presented_setWrNeeded
    (presented_ite (fun _ => presented_carries hread (carries_memWrite reg _)) fun _ => hread) hm _

end

/-! ### Every operation -/

/-- How many free weekdays an operation draws: one for each decode in the layout of chip C (R141; log 9). -/
def freeWeekdays (i : Instr) (v : Chip) : Nat :=
  match i with
  | .timeDecC => 1
  | .timeGet => if v = .c then 1 else 0
  | _ => 0

theorem freeWeekdays_eq_zero {i : Instr} {v : Chip} (hi : i ≠ .timeDecC) (hv : i = .timeGet → v ≠ .c) :
    freeWeekdays i v = 0 := by
  cases i with
  | timeDecC => exact absurd rfl hi
  | timeGet => exact if_neg (hv rfl)
  | _ => rfl

/-- The serial family is accepted on 3W only (R75). -/
theorem accept_chip_of_hasSerial {s : State} (h : hasSerial s.cfg.chip = true) : s.accept.cfg.chip = .w3 := by
  rw [accept_cfg]
  cases hc : s.cfg.chip with
  | w3 => rfl
  | a | b | c | d =>
    rw [hc] at h
    exact absurd h Bool.false_ne_true

/-- The I2C family is accepted on the other chips only (R75). -/
theorem accept_chip_of_hasI2c {s : State} (h : hasI2c s.cfg.chip = true) : s.accept.cfg.chip ≠ .w3 := by
  intro hc
  rw [accept_cfg] at hc
  rw [hc] at h
  exact absurd h Bool.false_ne_true

/-- An operation of `s` answers its refusal, or the end of a body that presented its own results and nothing else. -/
def Answers (i : Instr) (s : State) : Prop :=
  exec i s = .next s.refuse ∨
    ∃ b, exec i s = .next b.finish ∧ Presented (resultsOf i) (freeWeekdays i s.cfg.chip) s b

theorem answers_of_presented {i : Instr} {s : State} {ok : Bool} {body : State → State}
    (he : exec i s = s.operate ok body)
    (h : ok = true → Presented (resultsOf i) (freeWeekdays i s.cfg.chip) s (body s.accept)) : Answers i s := by
  cases ok with
  | true => exact .inr ⟨body s.accept, he, h rfl⟩
  | false => exact .inl he

section
variable (s : State)

/-- The probe: an empty transmission, and on C and D the voltage-low check of a device that is present (R115, R116). -/
theorem answers_i2cProbe : Answers .i2cProbe s :=
  answers_of_presented (exec_i2cProbe s) fun hok => by
    have hc := accept_chip_of_hasI2c hok
    have hprobed : Presented (resultsOf .i2cProbe) 0 s s.accept.probed :=
      presented_setPresent (presented_carried (carries_emptyTransmission hc)) (by decide) _
    exact presented_ite
      (fun _ => presented_setR (presented_carries hprobed (carries_voltageLowCheck hc)) (by decide) _)
      fun _ => hprobed

/-- The RAM accessors: out of range only the sentinel and `oor`, in range one access (R187, R188). -/
theorem answers_ramRd : Answers .ramRd s :=
  answers_of_presented (exec_ramRd s) fun _ =>
    presented_ite (fun _ => presented_setOor (presented_setR (presented_accept _ s) (by decide) _) (by decide) _)
      fun _ => presented_readR (carries_memRead _) (by decide) _

theorem answers_ramWr : Answers .ramWr s :=
  answers_of_presented (exec_ramWr s) fun _ =>
    presented_ite (fun _ => presented_setOor (presented_accept _ s) (by decide) _)
      fun _ => presented_carried (carries_memWrite _ _)

/-- `TIME.GET`: one burst, its bytes on `rbuf`, then the decode of the chip (R145). -/
theorem answers_timeGet : Answers .timeGet s :=
  answers_of_presented (exec_timeGet s) fun _ =>
    presented_decodeTime (presented_readRbuf carries_timeBurstRead (by decide) _) (by decide) _ _ (Nat.zero_add _)

/-- `TIME.SET`: the bytes on `rbuf`, then one burst of them (R146). -/
theorem answers_timeSet : Answers .timeSet s :=
  answers_of_presented (exec_timeSet s) fun _ =>
    presented_carries (presented_setRbuf (presented_accept _ s) (by decide) _) (carries_timeBurstWrite _)

end

/-- What an operation can answer, said once for all of them. -/
theorem answers (i : Instr) (s : State) : Answers i s := by
  cases i with
  | bcdDec => exact answers_of_presented (exec_bcdDec s) fun _ => presented_setR (presented_accept _ s) (by decide) _
  | bcdEnc => exact answers_of_presented (exec_bcdEnc s) fun _ => presented_setR (presented_accept _ s) (by decide) _
  | serWrb =>
    exact answers_of_presented (exec_serWrb s) fun hok =>
      presented_carried (carries_sendByte (accept_chip_of_hasSerial hok) _)
  | serRdb =>
    exact answers_of_presented (exec_serRdb s) fun hok =>
      presented_readR (carries_serialRead (accept_chip_of_hasSerial hok)) (by decide) _
  | txnBegin =>
    exact answers_of_presented (exec_txnBegin s) fun hok =>
      presented_carried (carries_txnBegin (accept_chip_of_hasSerial hok))
  | txnEnd =>
    exact answers_of_presented (exec_txnEnd s) fun hok =>
      presented_carried (carries_txnEnd (accept_chip_of_hasSerial hok))
  | w3Rd =>
    exact answers_of_presented (exec_w3Rd s) fun hok =>
      presented_readR (carries_w3Read (accept_chip_of_hasSerial hok) _) (by decide) _
  | w3Wr =>
    exact answers_of_presented (exec_w3Wr s) fun hok =>
      presented_carried (carries_w3Write (accept_chip_of_hasSerial hok) _ _)
  | w3Brd =>
    exact answers_of_presented (exec_w3Brd s) fun hok =>
      presented_readRbuf
        (carries_w3BurstRead (accept_chip_of_hasSerial (Bool.and_eq_true_iff.1 hok).1) _ _) (by decide) _
  | w3Bwr =>
    exact answers_of_presented (exec_w3Bwr s) fun hok =>
      presented_carried (carries_w3BurstWrite (accept_chip_of_hasSerial (Bool.and_eq_true_iff.1 hok).1) _ _)
  | i2cRd =>
    exact answers_of_presented (exec_i2cRd s) fun hok =>
      presented_readR (carries_i2cRead (accept_chip_of_hasI2c hok) _) (by decide) _
  | i2cWr =>
    exact answers_of_presented (exec_i2cWr s) fun hok =>
      presented_carried (carries_i2cWrite (accept_chip_of_hasI2c hok) _ _)
  | i2cBrd =>
    exact answers_of_presented (exec_i2cBrd s) fun hok =>
      presented_readRbuf
        (carries_i2cBurstRead (accept_chip_of_hasI2c (Bool.and_eq_true_iff.1 hok).1) _ _) (by decide) _
  | i2cBwr =>
    exact answers_of_presented (exec_i2cBwr s) fun hok =>
      presented_carried (carries_i2cBurstWrite (accept_chip_of_hasI2c (Bool.and_eq_true_iff.1 hok).1) _ _)
  | i2cProbe => exact answers_i2cProbe s
  | timeDec3W =>
    exact answers_of_presented (exec_timeDec3W s) fun _ =>
      presented_decodeTime (presented_accept _ s) (by decide) _ _ rfl
  | timeDecA =>
    exact answers_of_presented (exec_timeDecA s) fun _ =>
      presented_decodeTime (presented_accept _ s) (by decide) _ _ rfl
  | timeDecB =>
    exact answers_of_presented (exec_timeDecB s) fun _ =>
      presented_decodeTime (presented_accept _ s) (by decide) _ _ rfl
  | timeDecC =>
    exact answers_of_presented (exec_timeDecC s) fun _ =>
      presented_decodeTime (presented_accept _ s) (by decide) _ _ rfl
  | timeDecD =>
    exact answers_of_presented (exec_timeDecD s) fun _ =>
      presented_decodeTime (presented_accept _ s) (by decide) _ _ rfl
  | timeGet => exact answers_timeGet s
  | timeSet => exact answers_timeSet s
  | timeEnc3W =>
    exact answers_of_presented (exec_timeEnc3W s) fun _ =>
      presented_setRbuf (presented_accept _ s) (by decide) _
  | timeEncA =>
    exact answers_of_presented (exec_timeEncA s) fun _ =>
      presented_setRbuf (presented_accept _ s) (by decide) _
  | timeEncB =>
    exact answers_of_presented (exec_timeEncB s) fun _ =>
      presented_setRbuf (presented_accept _ s) (by decide) _
  | timeEncC =>
    exact answers_of_presented (exec_timeEncC s) fun _ =>
      presented_setRbuf (presented_accept _ s) (by decide) _
  | timeEncD =>
    exact answers_of_presented (exec_timeEncD s) fun _ =>
      presented_setRbuf (presented_accept _ s) (by decide) _
  | alm4Dec =>
    exact answers_of_presented (exec_alm4Dec s) fun _ =>
      presented_setAlarm (presented_accept _ s) (by decide) (by decide) (by decide) _ _ _
  | alm4Enc =>
    exact answers_of_presented (exec_alm4Enc s) fun _ =>
      presented_setRbuf (presented_accept _ s) (by decide) _
  | alm3Dec =>
    exact answers_of_presented (exec_alm3Dec s) fun _ =>
      presented_setAlarm (presented_accept _ s) (by decide) (by decide) (by decide) _ _ _
  | alm3Enc =>
    exact answers_of_presented (exec_alm3Enc s) fun _ =>
      presented_setRbuf (presented_accept _ s) (by decide) _
  | almdDec =>
    exact answers_of_presented (exec_almdDec s) fun _ =>
      presented_setRdd (presented_accept _ s) (by decide) _
  | almdEnc =>
    exact answers_of_presented (exec_almdEnc s) fun _ =>
      presented_setRbufRsel (presented_accept _ s) (by decide) (by decide) _ _
  | tcsDec =>
    exact answers_of_presented (exec_tcsDec s) fun _ =>
      presented_setRateInvalid (presented_setR (presented_accept _ s) (by decide) _) (by decide) _
  | flagEval =>
    exact answers_of_presented (exec_flagEval s) fun _ =>
      presented_setWrNeeded (presented_setR (presented_accept _ s) (by decide) _) (by decide) _
  | flagSet =>
    exact answers_of_presented (exec_flagSet s) fun _ =>
      presented_flagSet (presented_accept _ s) (by decide) _ _ _
  | flagGet => exact answers_of_presented (exec_flagGet s) fun _ => presented_readR (carries_memRead _) (by decide) _
  | ramRd => exact answers_ramRd s
  | ramWr => exact answers_ramWr s
  | regRd => exact answers_of_presented (exec_regRd s) fun _ => presented_readR (carries_memRead _) (by decide) _
  | regWr => exact answers_of_presented (exec_regWr s) fun _ => presented_carried (carries_memWrite _ _)
  | runGet => exact answers_of_presented (exec_runGet s) fun _ => presented_readR (carries_memRead _) (by decide) _
  | runSet =>
    exact answers_of_presented (exec_runSet s) fun _ =>
      presented_flagSet (presented_accept _ s) (by decide) _ _ _
  | ageDec =>
    exact answers_of_presented (exec_ageDec s) fun _ =>
      presented_setR16 (presented_accept _ s) (by decide) _
  | tempDec =>
    exact answers_of_presented (exec_tempDec s) fun _ =>
      presented_setR16 (presented_accept _ s) (by decide) _

/-- Settles O13: the events of every accepted body are of the chip's transport, and those of I2C leave the lines alone;
a refusal has no event. -/
theorem eachChipUsesItsTransport : Obligations.EachChipUsesItsTransport := by
  intro i s
  obtain h | ⟨b, h, hb⟩ := answers i s
  · exact ⟨s.refuse, [], h, endedWith_refuse s, fun _ e he => absurd he List.not_mem_nil,
      fun _ => ⟨fun e he => absurd he List.not_mem_nil, rfl, rfl⟩⟩
  · obtain ⟨evs, hp, ho, hw⟩ := hb.uses
    refine ⟨b.finish, evs, h, endedWith_finish hp, fun hc e he => ?_, fun hc => ?_⟩
    · rw [ho e he]
      exact decide_eq_true hc
    · have hbus : ∀ e ∈ evs, isPinEvent e = false := fun e he => (ho e he).trans (decide_eq_false hc)
      exact ⟨hbus, hp.pins.trans (pins_foldl_i2c evs _ hbus), hw hc⟩

/-- Acceptance and refusal clear what the operation before presented (R14; log 5), so no meaning, each of them one
`operate`, meets anything of it. -/
theorem exec_forgets_results (i : Instr) (s : State) (r : Results) (st : Status) (d : Bool) :
    exec i { s with res := r, status := st, done := d } = exec i s := by
  cases i <;> rfl

/-- Settles O14: an operation presents on its own ports, or is refused and presents on none. -/
theorem resultsAreThisOperationsOwn : Obligations.ResultsAreThisOperationsOwn := by
  refine ⟨fun i s t p ht hp => ?_, fun i s t ht hi hv => ?_, exec_forgets_results⟩
  · obtain h | ⟨b, h, hb⟩ := answers i s
    · cases h.symm.trans ht
      exact portIsZero_refuse s p
    · cases h.symm.trans ht
      exact (portIsZero_congr (finish_res b) (finish_status b) p).trans (hb.zero p hp)
  · obtain h | ⟨b, h, hb⟩ := answers i s
    · cases h.symm.trans ht
      rfl
    · cases h.symm.trans ht
      rw [finish_draws, hb.draws, freeWeekdays_eq_zero hi hv, Nat.add_zero]

end Sys2Proof.Machine
end

section
/-! PROOF. What the events of an operation do to the data line and to the device's registers: every use of the line is
legal (R94, R238), and nothing outside the addresses of the operation is stored (R31, R33, R34). -/

namespace Sys2Proof.Machine

open Sys2Proof

/-! ### Legal use of the data line -/

/-- From whatever direction the data line has, every event uses it legally (R94, R238). -/
def UsesLineLegally (evs : List Event) : Prop := ∀ d, (lineAfter d evs).isSome = true

/-- A legal event leaves the direction the lines then have. -/
theorem dir_after_of_lineStep {p : Pins} {e : Event} {d : Dir} (h : lineStep p.dir e = some d) :
    (p.after e).dir = d := by
  cases e with
  | dir d' => exact Option.some.inj h
  | sample b | dout b =>
    simp only [lineStep] at h
    split at h
    · exact Option.some.inj h
    · exact absurd h.symm (Option.some_ne_none d)
  | _ => exact Option.some.inj h

/-- `lineAfter` follows the direction of the lines (R42). -/
theorem dir_foldl_of_lineAfter {evs : List Event} {p : Pins} {d : Dir} (h : lineAfter p.dir evs = some d) :
    (evs.foldl Pins.after p).dir = d := by
  induction evs generalizing p with
  | nil => exact Option.some.inj h
  | cons e es ih =>
    simp only [lineAfter] at h
    split at h
    · rename_i d' hd
      exact ih (dir_after_of_lineStep hd ▸ h)
    · exact absurd h.symm (Option.some_ne_none d)

theorem lineAfter_of_usesLineLegally {evs : List Event} (h : UsesLineLegally evs) (p : Pins) :
    lineAfter p.dir evs = some (evs.foldl Pins.after p).dir := by
  obtain ⟨d, hd⟩ := Option.isSome_iff_exists.1 (h p.dir)
  rw [hd, dir_foldl_of_lineAfter hd]

theorem lineAfter_append (d : Dir) (as bs : List Event) :
    lineAfter d (as ++ bs) = (lineAfter d as).bind fun d' => lineAfter d' bs := by
  induction as generalizing d with
  | nil => rfl
  | cons e es ih =>
    simp only [List.cons_append, lineAfter]
    cases lineStep d e with
    | none => rfl
    | some d' => exact ih d'

theorem usesLineLegally_nil : UsesLineLegally [] := fun _ => rfl

theorem usesLineLegally_append {as bs : List Event} (ha : UsesLineLegally as) (hb : UsesLineLegally bs) :
    UsesLineLegally (as ++ bs) := fun d => by
  obtain ⟨d', hd⟩ := Option.isSome_iff_exists.1 (ha d)
  rw [lineAfter_append, hd]
  exact hb d'

theorem usesLineLegally_flatMap {α : Type} {f : α → List Event} (hf : ∀ x, UsesLineLegally (f x)) (l : List α) :
    UsesLineLegally (l.flatMap f) := by
  induction l with
  | nil => exact usesLineLegally_nil
  | cons x l ih => exact usesLineLegally_append (hf x) ih

/-- A send turns the line to an output first (R91). -/
theorem usesLineLegally_send (settle : Nat) (v : Byte) : UsesLineLegally (sendEvents settle v) := fun _ => rfl

/-- A receive turns the line to an input first (R93). -/
theorem usesLineLegally_receive (settle : Nat) (bits : List Bool) :
    UsesLineLegally (receiveEvents settle bits) := fun _ => by
  change (lineAfter .inp (bits.flatMap fun b => .sample b :: pulseEvents settle)).isSome = true
  induction bits with
  | nil => rfl
  | cons b bits ih => exact ih

theorem usesLineLegally_frameOpen (p : Params) : UsesLineLegally (frameOpen p) := fun _ => rfl

theorem usesLineLegally_frameClose (p : Params) : UsesLineLegally (frameClose p) := fun _ => rfl

theorem usesLineLegally_w3Write (p : Params) (cmd : Byte) (data : List Byte) :
    UsesLineLegally (w3WriteEvents p cmd data) :=
  usesLineLegally_append
    (usesLineLegally_append (usesLineLegally_append (usesLineLegally_frameOpen p) (usesLineLegally_send _ cmd))
      (usesLineLegally_flatMap (usesLineLegally_send _) data))
    (usesLineLegally_frameClose p)

theorem usesLineLegally_w3Read (p : Params) (cmd : Byte) (answers : List (List Bool)) :
    UsesLineLegally (w3ReadEvents p cmd answers) :=
  usesLineLegally_append
    (usesLineLegally_append (usesLineLegally_append (usesLineLegally_frameOpen p) (usesLineLegally_send _ cmd))
      (usesLineLegally_flatMap (usesLineLegally_receive _) answers))
    (usesLineLegally_frameClose p)

/-- The events of the bus do not touch the data line. -/
theorem usesLineLegally_of_all_not_pin {evs : List Event} (h : evs.all (fun e => !isPinEvent e) = true) :
    UsesLineLegally evs := by
  induction evs with
  | nil => exact usesLineLegally_nil
  | cons e es ih =>
    rw [List.all_cons, Bool.and_eq_true] at h
    have hstep : ∀ d, lineStep d e = some d := fun d => by
      cases e with
      | i2cBegin | i2cWrite | i2cEnd | i2cRequest | i2cRead => rfl
      | _ => exact absurd h.1 Bool.false_ne_true
    intro d
    rw [lineAfter, hstep d]
    exact ih h.2 d

/-! ### The registers a list of events stores to -/

/-- No event stores to a register of the device outside `A`, whatever the device. -/
def StoresWithin (A : List Byte) (evs : List Event) : Prop :=
  ∀ e : Env, e.mem.wf = true → ∀ x : Byte, x ∉ A → (evs.foldl Env.after e).mem.read x.toNat = e.mem.read x.toNat

/-- Consecutive bytes stored from an address on, modulo 256 (R34). -/
def Memory.writeFrom : Memory → Byte → List Byte → Memory
  | m, _, [] => m
  | m, a, v :: vs => Memory.writeFrom (m.write a.toNat v) (a + 1) vs

theorem mode_after (e : Env) (ev : Event) : (e.after ev).mode = e.mode := by
  cases ev with
  | i2cEnd st | i2cRead v | i2cBegin a => cases hm : e.mode <;> simp [Env.after, hm]
  | i2cWrite v =>
    cases hm : e.mode with
    | oracle => simp [Env.after, hm]
    | reference => cases hf : e.fresh <;> simp [Env.after, Env.afterWrite, hm, hf]
  | _ => rfl

theorem mem_after_pin {ev : Event} (h : isPinEvent ev = true) (e : Env) : (e.after ev).mem = e.mem := by
  cases ev with
  | i2cBegin | i2cWrite | i2cEnd | i2cRequest | i2cRead => exact absurd h Bool.false_ne_true
  | _ => rfl

/-- Pin events reach no register of the device (log 4). -/
theorem mem_foldl_pin {evs : List Event} (h : ∀ ev ∈ evs, isPinEvent ev = true) (e : Env) :
    (evs.foldl Env.after e).mem = e.mem := by
  induction evs generalizing e with
  | nil => rfl
  | cons ev evs ih =>
    rw [List.foldl_cons, ih fun x hx => h x (List.mem_cons_of_mem _ hx), mem_after_pin (h ev List.mem_cons_self)]

theorem mem_after_oracle {e : Env} (hm : e.mode = .oracle) (ev : Event) : (e.after ev).mem = e.mem := by
  cases ev <;> simp [Env.after, hm]

/-- With the oracle as the device no event stores anything (R31). -/
theorem mem_foldl_oracle {e : Env} (hm : e.mode = .oracle) (evs : List Event) :
    (evs.foldl Env.after e).mem = e.mem := by
  induction evs generalizing e with
  | nil => rfl
  | cons ev evs ih => rw [List.foldl_cons, ih ((mode_after e ev).trans hm), mem_after_oracle hm]

theorem add_ofNat_succ (a : Byte) (k : Nat) : a + BitVec.ofNat 8 (k + 1) = a + 1 + BitVec.ofNat 8 k := by
  rw [BitVec.add_assoc, Nat.add_comm k 1, BitVec.ofNat_add]
  rfl

/-- The open transmission's data bytes go to consecutive registers. -/
theorem env_foldl_dataWrites (vs : List Byte) (e : Env) (hm : e.mode = .reference) (hf : e.fresh = false) :
    (vs.map Event.i2cWrite).foldl Env.after e =
      { e with mem := e.mem.writeFrom e.ptr vs, ptr := e.ptr + BitVec.ofNat 8 vs.length } := by
  induction vs generalizing e with
  | nil => simp [Memory.writeFrom]
  | cons v vs ih =>
    have hv : e.after (.i2cWrite v) = { e with mem := e.mem.write e.ptr.toNat v, ptr := e.ptr + 1 } := by
      simp [Env.after, Env.afterWrite, hm, hf]
    rw [List.map_cons, List.foldl_cons, ih _ ((mode_after e _).trans hm) (by rw [hv]; exact hf), hv,
      Memory.writeFrom, List.length_cons, add_ofNat_succ]

/-- The reference device after a write transmission: the bytes stored, and the pointer behind them. -/
theorem env_foldl_i2cWrite_reference (p : Params) (a : Byte) (vs : List Byte) (st : Nat) (e : Env)
    (hm : e.mode = .reference) :
    (i2cWriteEvents p a vs st).foldl Env.after e =
      { e with mem := e.mem.writeFrom a vs, ptr := a + BitVec.ofNat 8 vs.length, fresh := false } := by
  have haddr : [Event.i2cBegin p.devAddr, .i2cWrite a].foldl Env.after e = { e with ptr := a, fresh := false } := by
    simp [Env.after, Env.afterWrite, hm]
  rw [i2cWriteEvents, List.foldl_append, List.foldl_append, haddr,
    env_foldl_dataWrites vs { e with ptr := a, fresh := false } hm rfl]
  simp [Env.after, hm]

/-- The reference device after the address phase of a read: the pointer at the address. -/
theorem env_foldl_address_reference (p : Params) (a : Byte) (st n : Nat) (e : Env) (hm : e.mode = .reference) :
    [Event.i2cBegin p.devAddr, .i2cWrite a, .i2cEnd st, .i2cRequest p.devAddr n].foldl Env.after e =
      { e with ptr := a, fresh := false } := by
  simp [Env.after, Env.afterWrite, hm]

theorem mem_foldl_reads (vs : List Byte) (e : Env) : ((vs.map Event.i2cRead).foldl Env.after e).mem = e.mem := by
  induction vs generalizing e with
  | nil => rfl
  | cons v vs ih =>
    rw [List.map_cons, List.foldl_cons, ih]
    cases hm : e.mode <;> simp [Env.after, hm]

/-- A read transmission stores nothing. -/
theorem mem_foldl_i2cRead (p : Params) (a : Byte) (st : Nat) (vs : List Byte) (e : Env) :
    ((i2cReadEvents p a st vs).foldl Env.after e).mem = e.mem := by
  cases hm : e.mode with
  | oracle => exact mem_foldl_oracle hm _
  | reference => rw [i2cReadEvents, List.foldl_append, env_foldl_address_reference p a st _ e hm, mem_foldl_reads]

/-- Nor does an empty transmission. -/
theorem mem_foldl_empty {d : DevAddr} {st : Nat} (e : Env) :
    ([Event.i2cBegin d, .i2cEnd st].foldl Env.after e).mem = e.mem := by
  cases hm : e.mode <;> simp [Env.after, hm]

theorem mem_foldl_registerRead {p : Params} {a v : Byte} {evs : List Event} (h : IsRegisterRead p a v evs) (e : Env) :
    (evs.foldl Env.after e).mem = e.mem := by
  unfold IsRegisterRead at h
  split at h
  · obtain ⟨bits, -, rfl⟩ := h
    exact mem_foldl_pin (List.all_eq_true.1 (w3ReadEvents_all_pin ..)) e
  · obtain ⟨st, rfl⟩ := h
    exact mem_foldl_i2cRead p a st [v] e

theorem mem_addressesFrom {a x : Byte} {n : Nat} :
    x ∈ addressesFrom a n ↔ ∃ k, k < n ∧ x = a + BitVec.ofNat 8 k := by
  simp [addressesFrom, eq_comm]

theorem addressesFrom_succ (a : Byte) (n : Nat) : addressesFrom a (n + 1) = a :: addressesFrom (a + 1) n := by
  simp only [addressesFrom, List.range_succ_eq_map, List.map_cons, List.map_map]
  congr 1
  · exact BitVec.add_zero a
  · exact List.map_congr_left fun k _ => add_ofNat_succ a k

/-- A register outside the consecutive addresses reads as before. -/
theorem read_writeFrom_of_not_mem (vs : List Byte) (m : Memory) (a : Byte) (hm : m.wf = true) {x : Byte}
    (hx : x ∉ addressesFrom a vs.length) : (m.writeFrom a vs).read x.toNat = m.read x.toNat := by
  induction vs generalizing m a with
  | nil => rfl
  | cons v vs ih =>
    rw [List.length_cons, addressesFrom_succ, List.mem_cons, not_or] at hx
    have hne : x.toNat ≠ a.toNat := fun h => hx.1 (BitVec.eq_of_toNat_eq h)
    rw [Memory.writeFrom, ih _ _ (wf_write m _ v a.isLt hm) hx.2, read_write m _ v _ hm, if_neg hne]

/-- The register `k` places after the first holds byte `k`, as long as the addresses do not wrap onto themselves. -/
theorem read_writeFrom (vs : List Byte) (m : Memory) (a : Byte) (hm : m.wf = true) (hl : vs.length ≤ 256) {k : Nat}
    (hk : k < vs.length) : (m.writeFrom a vs).read (a + BitVec.ofNat 8 k).toNat = vs.getD k 0 := by
  induction vs generalizing m a k with
  | nil => exact absurd hk (Nat.not_lt_zero k)
  | cons v vs ih =>
    have hm' := wf_write m a.toNat v a.isLt hm
    rw [List.length_cons] at hl hk
    cases k with
    | succ k =>
      rw [add_ofNat_succ]
      exact ih _ _ hm' (Nat.le_of_succ_le hl) (Nat.lt_of_succ_lt_succ hk)
    | zero =>
      have hout : a ∉ addressesFrom (a + 1) vs.length := by
        rw [mem_addressesFrom]
        rintro ⟨j, hj, h⟩
        bv_omega
      rw [show a + BitVec.ofNat 8 0 = a from BitVec.add_zero a, Memory.writeFrom,
        read_writeFrom_of_not_mem vs _ _ hm' hout, read_write m _ v _ hm, if_pos rfl]
      rfl

theorem storesWithin_nil : StoresWithin [] [] := fun _ _ _ _ => rfl

theorem storesWithin_mono {A B : List Byte} {evs : List Event} (h : StoresWithin A evs) (hAB : A ⊆ B) :
    StoresWithin B evs := fun e he x hx => h e he x fun hA => hx (hAB hA)

theorem storesWithin_append {A : List Byte} {as bs : List Event} (ha : StoresWithin A as) (hb : StoresWithin A bs) :
    StoresWithin A (as ++ bs) := fun e he x hx => by
  rw [List.foldl_append, hb _ (wf_foldl_after as e he) x hx, ha e he x hx]

/-- Events that leave the device's memory alone. -/
theorem storesWithin_of_mem_eq {evs : List Event} (h : ∀ e : Env, (evs.foldl Env.after e).mem = e.mem) :
    StoresWithin [] evs := fun e _ x _ => by
  rw [h e]

theorem storesWithin_of_all_pin {evs : List Event} (h : evs.all isPinEvent = true) : StoresWithin [] evs :=
  storesWithin_of_mem_eq (mem_foldl_pin (List.all_eq_true.1 h))

/-- A write transmission stores to consecutive registers only. -/
theorem storesWithin_i2cWrite (p : Params) (a : Byte) (vs : List Byte) (st : Nat) :
    StoresWithin (addressesFrom a vs.length) (i2cWriteEvents p a vs st) := fun e he x hx => by
  cases hm : e.mode with
  | oracle => rw [mem_foldl_oracle hm]
  | reference =>
    rw [env_foldl_i2cWrite_reference p a vs st e hm]
    exact read_writeFrom_of_not_mem vs e.mem a he hx

/-! ### Bodies that act through legal events and store within given addresses -/

/-- `b` is `u` after events that use the data line legally and store to no register of the device outside `A`. -/
def ActsWithin (A : List Byte) (u b : State) : Prop :=
  ∃ evs, Performs u b evs ∧ UsesLineLegally evs ∧ StoresWithin A evs

theorem actsWithin_refl (A : List Byte) (u : State) : ActsWithin A u u :=
  ⟨[], performs_refl u, usesLineLegally_nil, storesWithin_mono storesWithin_nil (List.nil_subset A)⟩

theorem actsWithin_trans {A : List Byte} {u v w : State} (h : ActsWithin A u v) (k : ActsWithin A v w) :
    ActsWithin A u w := by
  obtain ⟨as, hp, hl, hs⟩ := h
  obtain ⟨bs, kp, kl, ks⟩ := k
  exact ⟨as ++ bs, performs_trans hp kp, usesLineLegally_append hl kl, storesWithin_append hs ks⟩

theorem actsWithin_mono {A B : List Byte} {u b : State} (h : ActsWithin A u b) (hAB : A ⊆ B) : ActsWithin B u b := by
  obtain ⟨evs, hp, hl, hs⟩ := h
  exact ⟨evs, hp, hl, storesWithin_mono hs hAB⟩

/-- A body that stores nothing stores within any addresses. -/
theorem actsWithin_of_none {u b : State} (h : ActsWithin [] u b) (A : List Byte) : ActsWithin A u b :=
  actsWithin_mono h (List.nil_subset A)

/-- Results, status bits and the free-value counter are no part of what a body does to the lines and the device. -/
theorem actsWithin_results {A : List Byte} {u b : State} (h : ActsWithin A u b) (r : Results) (st : Status) (k : Nat) :
    ActsWithin A u { b with res := r, status := st, draws := k } := by
  obtain ⟨evs, hp, hl, hs⟩ := h
  exact ⟨evs, ⟨hp.cfg, hp.ports, hp.host, hp.resetIn, hp.start, hp.trace, hp.pins, hp.env⟩, hl, hs⟩

theorem actsWithin_ite {A : List Byte} {u b c : State} {x : Bool} (hb : x = true → ActsWithin A u b)
    (hc : x = false → ActsWithin A u c) : ActsWithin A u (if x then b else c) := by
  cases x with
  | true => exact hb rfl
  | false => exact hc rfl

section
variable (u : State)

theorem actsWithin_of_pin_events {evs : List Event} (hl : UsesLineLegally evs) (hp : evs.all isPinEvent = true)
    (w : Work) : ActsWithin [] u ((State.emits evs u).setWork w) :=
  ⟨evs, performs_setWork (performs_emits evs u) w, hl, storesWithin_of_all_pin hp⟩

theorem actsWithin_sendByte (v : Byte) : ActsWithin [] u (u.sendByte v) :=
  sendByte_eq v u ▸ actsWithin_of_pin_events u (usesLineLegally_send _ _) (sendEvents_all_pin ..) _

theorem actsWithin_serialRead : ActsWithin [] u u.serialRead.2 :=
  serialRead_eq u ▸ actsWithin_of_pin_events u (usesLineLegally_receive _ _) (receiveEvents_all_pin ..) _

theorem actsWithin_txnBegin : ActsWithin [] u u.txnBegin :=
  actsWithin_of_pin_events u (usesLineLegally_frameOpen u.cfg) rfl u.work

theorem actsWithin_txnEnd : ActsWithin [] u u.txnEnd :=
  actsWithin_of_pin_events u (usesLineLegally_frameClose u.cfg) rfl u.work

theorem actsWithin_w3Read (code : Byte) : ActsWithin [] u (u.w3Read code).2 :=
  w3Read_eq code u ▸ actsWithin_of_pin_events u (usesLineLegally_w3Read _ _ _) (w3ReadEvents_all_pin ..) _

theorem actsWithin_w3Write (code v : Byte) : ActsWithin [] u (u.w3Write code v) :=
  w3Write_eq code v u ▸ actsWithin_of_pin_events u (usesLineLegally_w3Write _ _ _) (w3WriteEvents_all_pin ..) _

theorem actsWithin_w3BurstRead (cmd : Byte) (n : Nat) : ActsWithin [] u (u.w3BurstRead cmd n).2 := by
  obtain ⟨answers, bytes, w, -, -, h⟩ := w3BurstRead_eq cmd n u
  rw [h]
  exact actsWithin_of_pin_events u (usesLineLegally_w3Read _ _ _) (w3ReadEvents_all_pin ..) w

theorem actsWithin_w3BurstWrite (cmd : Byte) (vs : List Byte) : ActsWithin [] u (u.w3BurstWrite cmd vs) := by
  obtain ⟨w, h⟩ := w3BurstWrite_eq cmd vs u
  rw [h]
  exact actsWithin_of_pin_events u (usesLineLegally_w3Write _ _ _) (w3WriteEvents_all_pin ..) w

/-- A read transmission. -/
theorem actsWithin_i2cReadEvents (a : Byte) (st : Nat) (vs : List Byte) :
    ActsWithin [] u (State.emits (i2cReadEvents u.cfg a st vs) u) :=
  ⟨_, performs_emits _ u, usesLineLegally_of_all_not_pin (i2cReadEvents_all_not_pin ..),
    storesWithin_of_mem_eq (mem_foldl_i2cRead u.cfg a st vs)⟩

/-- A write transmission. -/
theorem actsWithin_i2cWriteEvents (a : Byte) (vs : List Byte) (st : Nat) :
    ActsWithin (addressesFrom a vs.length) u (State.emits (i2cWriteEvents u.cfg a vs st) u) :=
  ⟨_, performs_emits _ u, usesLineLegally_of_all_not_pin (i2cWriteEvents_all_not_pin ..),
    storesWithin_i2cWrite u.cfg a vs st⟩

theorem actsWithin_i2cBurstRead (a : Byte) (n : Nat) : ActsWithin [] u (u.i2cBurstRead a n).2 := by
  obtain ⟨st, vs, -, h⟩ := i2cBurstRead_eq a n u
  exact h ▸ actsWithin_i2cReadEvents u a st vs

theorem actsWithin_i2cRead (a : Byte) : ActsWithin [] u (u.i2cRead a).2 :=
  actsWithin_i2cBurstRead u a 1

theorem actsWithin_i2cBurstWrite (a : Byte) (vs : List Byte) :
    ActsWithin (addressesFrom a vs.length) u (u.i2cBurstWrite a vs) := by
  obtain ⟨st, h⟩ := i2cBurstWrite_eq a vs u
  exact h ▸ actsWithin_i2cWriteEvents u a vs st

theorem actsWithin_i2cWrite (a v : Byte) : ActsWithin [a] u (u.i2cWrite a v) := by
  have h := actsWithin_i2cBurstWrite u a [v]
  rwa [List.length_singleton, addressesFrom_succ] at h

theorem actsWithin_memRead (a : Byte) : ActsWithin [] u (u.memRead a).2 := by
  cases hc : u.cfg.chip with
  | w3 => simpa only [State.memRead, hc] using actsWithin_w3Read u (readCode a)
  | a | b | c | d => simpa only [State.memRead, hc] using actsWithin_i2cRead u a

theorem actsWithin_memWrite (a v : Byte) : ActsWithin [a] u (u.memWrite a v) := by
  cases hc : u.cfg.chip with
  | w3 => simpa only [State.memWrite, hc] using actsWithin_of_none (actsWithin_w3Write u a v) [a]
  | a | b | c | d => simpa only [State.memWrite, hc] using actsWithin_i2cWrite u a v

theorem actsWithin_timeBurstRead : ActsWithin [] u u.timeBurstRead.2 := by
  cases hc : u.cfg.chip with
  | w3 => simpa only [State.timeBurstRead, hc] using actsWithin_w3BurstRead u u.cfg.burstRd u.cfg.burstRdLen
  | a | b | c | d => simpa only [State.timeBurstRead, hc] using actsWithin_i2cBurstRead u u.cfg.timeBase 7

theorem actsWithin_timeBurstWrite (q : Buf) : ActsWithin (addressesFrom u.cfg.timeBase 7) u (u.timeBurstWrite q) := by
  cases hc : u.cfg.chip with
  | w3 =>
    simpa only [State.timeBurstWrite, hc] using
      actsWithin_of_none (actsWithin_w3BurstWrite u u.cfg.burstWr (q.first 8)) _
  | a | b | c | d =>
    simp only [State.timeBurstWrite, hc]
    exact actsWithin_i2cBurstWrite u u.cfg.timeBase (q.first 7)

theorem actsWithin_flagSet (reg mask : Byte) (want : Bool) : ActsWithin [reg] u (u.flagSet reg mask want) := by
  have hread := actsWithin_of_none (actsWithin_memRead u reg) [reg]
  exact actsWithin_results
    (actsWithin_ite (fun _ => actsWithin_trans hread (actsWithin_memWrite _ reg _)) fun _ => hread) _ _ _

/-- The empty transmission of the probe, with its `present` bit (R115). -/
theorem actsWithin_probed : ActsWithin [] u u.probed :=
  ⟨_, performs_setStatus (performs_emits [.i2cBegin u.cfg.devAddr, .i2cEnd _] u) _,
    usesLineLegally_of_all_not_pin rfl, storesWithin_of_mem_eq mem_foldl_empty⟩

theorem actsWithin_writeImage (img : List (Byte × Byte)) : ActsWithin (img.map (·.1)) u (State.writeImage img u) := by
  induction img generalizing u with
  | nil => exact actsWithin_refl _ u
  | cons x img ih =>
    exact actsWithin_trans (actsWithin_mono (actsWithin_i2cWrite u x.1 x.2) (by simp))
      (actsWithin_mono (ih (u.i2cWrite x.1 x.2)) (List.subset_cons_self _ _))

theorem actsWithin_voltageLowCheck : ActsWithin (u.cfg.initImage.map (·.1)) u u.voltageLowCheck.2 := by
  have hread := actsWithin_of_none (actsWithin_i2cRead u u.cfg.regVl) (u.cfg.initImage.map (·.1))
  cases hv : anyBitSet (u.i2cRead u.cfg.regVl).1 u.cfg.vlMask with
  | true =>
    simp only [State.voltageLowCheck, hv, if_true]
    exact actsWithin_trans hread (actsWithin_writeImage _ _)
  | false =>
    simp only [State.voltageLowCheck, hv, Bool.false_eq_true, if_false]
    exact hread

end

/-! ### Every operation -/

/-- An operation of `s` answers its refusal, or the end of a body that acts within the addresses of the operation. -/
def ActsThroughEvents (i : Instr) (s : State) : Prop :=
  exec i s = .next s.refuse ∨ ∃ b, exec i s = .next b.finish ∧ ActsWithin (storedAddresses i s) s.accept b

theorem actsThroughEvents_of_body {i : Instr} {s : State} {ok : Bool} {body : State → State}
    (he : exec i s = s.operate ok body)
    (h : ok = true → ActsWithin (storedAddresses i s) s.accept (body s.accept)) : ActsThroughEvents i s := by
  cases ok with
  | true => exact .inr ⟨body s.accept, he, h rfl⟩
  | false => exact .inl he

/-- An operation whose body reaches the device without storing, and then presents results. -/
theorem actsThroughEvents_of_reads {i : Instr} {s : State} {ok : Bool} {body : State → State} {b : State}
    (he : exec i s = s.operate ok body) (hb : ActsWithin [] s.accept b) (r : Results) (st : Status) (k : Nat)
    (hbody : body s.accept = { b with res := r, status := st, draws := k }) : ActsThroughEvents i s :=
  actsThroughEvents_of_body he fun _ => hbody ▸ actsWithin_of_none (actsWithin_results hb r st k) _

/-- An operation that presents results and does nothing else. -/
theorem actsThroughEvents_of_pure {i : Instr} {s : State} {r : Results} {st : Status} {k : Nat}
    (he : exec i s = .next (State.finish { s.accept with res := r, status := st, draws := k })) :
    ActsThroughEvents i s :=
  .inr ⟨_, he, actsWithin_results (actsWithin_refl _ s.accept) r st k⟩

theorem burstLengthOk_iff {n : Nat} : burstLengthOk n = true ↔ 1 ≤ n ∧ n ≤ 8 := by
  simp [burstLengthOk]

theorem first_length (q : Buf) {n : Nat} (h : n ≤ 8) : (q.first n).length = n := by
  simpa [Buf.first, Buf.toList] using h

section
variable (s : State)

/-- The operand `n` of an accepted burst is its number of bytes (R114). -/
theorem actsThroughEvents_i2cBwr : ActsThroughEvents .i2cBwr s :=
  actsThroughEvents_of_body (exec_i2cBwr s) fun hok => by
    obtain ⟨-, hn⟩ := Bool.and_eq_true_iff.1 hok
    have h := actsWithin_i2cBurstWrite s.accept s.ports.a (s.ports.buf.first s.ports.n.toNat)
    rwa [first_length _ (burstLengthOk_iff.1 hn).2] at h

/-- The probe stores where its voltage-low check does, on the chips that have one (R115, R116). -/
theorem actsThroughEvents_i2cProbe : ActsThroughEvents .i2cProbe s :=
  actsThroughEvents_of_body (exec_i2cProbe s) fun _ => by
    refine actsWithin_ite (fun hx => ?_) fun _ => actsWithin_of_none (actsWithin_probed s.accept) _
    obtain ⟨-, hv⟩ := Bool.and_eq_true_iff.1 hx
    rw [show storedAddresses .i2cProbe s = s.cfg.initImage.map (·.1) from if_pos hv]
    exact actsWithin_results
      (actsWithin_trans (actsWithin_of_none (actsWithin_probed s.accept) _)
        (actsWithin_voltageLowCheck s.accept.probed)) _ _ _

theorem actsThroughEvents_ramWr : ActsThroughEvents .ramWr s :=
  actsThroughEvents_of_body (exec_ramWr s) fun _ => by
    refine actsWithin_ite (fun _ => actsWithin_results (actsWithin_refl _ _) _ _ _) fun hx => ?_
    rw [show storedAddresses .ramWr s = [ramAddr s.cfg s.ports.a] from if_neg (Bool.eq_false_iff.1 hx)]
    exact actsWithin_memWrite _ _ _

end

/-- What an operation does to the lines and to the device, said once for all of them: the pure ones do nothing, the reading
ones perform one transfer that stores nothing, the writing ones store where their operands say. -/
theorem actsThroughEvents (i : Instr) (s : State) : ActsThroughEvents i s := by
  cases i with
  | i2cBwr => exact actsThroughEvents_i2cBwr s
  | i2cProbe => exact actsThroughEvents_i2cProbe s
  | ramWr => exact actsThroughEvents_ramWr s
  | ramRd =>
    exact actsThroughEvents_of_body (exec_ramRd s) fun _ =>
      actsWithin_ite (fun _ => actsWithin_results (actsWithin_refl _ _) _ _ _)
        fun _ => actsWithin_results (actsWithin_memRead _ _) _ _ _
  | i2cWr => exact actsThroughEvents_of_body (exec_i2cWr s) fun _ => actsWithin_i2cWrite _ _ _
  | regWr => exact actsThroughEvents_of_body (exec_regWr s) fun _ => actsWithin_memWrite _ _ _
  | flagSet => exact actsThroughEvents_of_body (exec_flagSet s) fun _ => actsWithin_flagSet _ _ _ _
  | runSet => exact actsThroughEvents_of_body (exec_runSet s) fun _ => actsWithin_flagSet _ _ _ _
  | timeSet =>
    exact actsThroughEvents_of_body (exec_timeSet s) fun _ =>
      actsWithin_trans (actsWithin_results (actsWithin_refl _ _) _ _ _)
        (actsWithin_timeBurstWrite (s.accept.setRbuf _) _)
  | serWrb => exact actsThroughEvents_of_body (exec_serWrb s) fun _ => actsWithin_sendByte s.accept s.ports.a
  | serRdb => exact actsThroughEvents_of_reads (exec_serRdb s) (actsWithin_serialRead _) _ _ _ rfl
  | txnBegin => exact actsThroughEvents_of_body (exec_txnBegin s) fun _ => actsWithin_txnBegin _
  | txnEnd => exact actsThroughEvents_of_body (exec_txnEnd s) fun _ => actsWithin_txnEnd _
  | w3Rd => exact actsThroughEvents_of_reads (exec_w3Rd s) (actsWithin_w3Read _ _) _ _ _ rfl
  | w3Wr => exact actsThroughEvents_of_body (exec_w3Wr s) fun _ => actsWithin_w3Write _ _ _
  | w3Brd => exact actsThroughEvents_of_reads (exec_w3Brd s) (actsWithin_w3BurstRead _ _ _) _ _ _ rfl
  | w3Bwr => exact actsThroughEvents_of_body (exec_w3Bwr s) fun _ => actsWithin_w3BurstWrite _ _ _
  | i2cRd => exact actsThroughEvents_of_reads (exec_i2cRd s) (actsWithin_i2cRead _ _) _ _ _ rfl
  | i2cBrd => exact actsThroughEvents_of_reads (exec_i2cBrd s) (actsWithin_i2cBurstRead _ _ _) _ _ _ rfl
  | timeGet => exact actsThroughEvents_of_reads (exec_timeGet s) (actsWithin_timeBurstRead _) _ _ _ rfl
  | flagGet => exact actsThroughEvents_of_reads (exec_flagGet s) (actsWithin_memRead _ _) _ _ _ rfl
  | regRd => exact actsThroughEvents_of_reads (exec_regRd s) (actsWithin_memRead _ _) _ _ _ rfl
  | runGet => exact actsThroughEvents_of_reads (exec_runGet s) (actsWithin_memRead _ _) _ _ _ rfl
  | bcdDec | bcdEnc | timeDec3W | timeDecA | timeDecB | timeDecC | timeDecD | timeEnc3W | timeEncA | timeEncB
  | timeEncC | timeEncD | alm4Dec | alm4Enc | alm3Dec | alm3Enc | almdDec | almdEnc | tcsDec | flagEval | ageDec
  | tempDec => exact actsThroughEvents_of_pure rfl

/-- Settles O11: a refusal has no event, and the events of an accepted body use the line legally. -/
theorem operationsActThroughEvents : Obligations.OperationsActThroughEvents := by
  intro i s
  obtain he | ⟨b, he, evs, hp, hl, -⟩ := actsThroughEvents i s
  · exact ⟨s.refuse, [], he, endedWith_refuse s, rfl⟩
  · have hend := endedWith_finish hp
    exact ⟨b.finish, evs, he, hend, hend.2.2.1 ▸ lineAfter_of_usesLineLegally hl s.pins⟩

/-- Settles O15: the device's memory is what the operation's events left of it. -/
theorem otherDeviceRegistersUnchanged : Obligations.OtherDeviceRegistersUnchanged := by
  intro i s t hwf ht a ha
  obtain he | ⟨b, he, evs, hp, -, hs⟩ := actsThroughEvents i s
  · cases he.symm.trans ht
    rfl
  · cases he.symm.trans ht
    rw [State.deviceByte, finish_env, hp.env]
    exact hs s.env hwf a ha

/-! ### The operations with a choice in their body, one equation for each branch -/

section
variable (s : State)

theorem exec_ramWr_of_outOfRange (h : ramOutOfRange s.cfg s.ports.a = true) :
    exec .ramWr s = .next (s.accept.setStatus { Status.zero with oor := true }).finish := by
  rw [exec_ramWr, operate_true, accept_cfg, accept_ports, h]
  rfl

theorem exec_ramWr_of_inRange (h : ramOutOfRange s.cfg s.ports.a = false) :
    exec .ramWr s = .next (s.accept.memWrite (ramAddr s.cfg s.ports.a) s.ports.b).finish := by
  rw [exec_ramWr, operate_true, accept_cfg, accept_ports, h]
  rfl

theorem exec_ramRd_of_inRange (h : ramOutOfRange s.cfg s.ports.a = false) :
    exec .ramRd s = .next ((s.accept.memRead (ramAddr s.cfg s.ports.a)).2.setR
      (s.accept.memRead (ramAddr s.cfg s.ports.a)).1).finish := by
  rw [exec_ramRd, operate_true, accept_cfg, accept_ports, h]
  rfl

theorem exec_i2cProbe_of_not_hasI2c (hok : hasI2c s.cfg.chip = false) : exec .i2cProbe s = .next s.refuse := by
  rw [exec_i2cProbe, hok, operate_false]

/-- An absent device, or a chip whose probe checks no flag (R115). -/
theorem exec_i2cProbe_of_no_check (hok : hasI2c s.cfg.chip = true)
    (h : (s.accept.probed.status.present && checksVoltage s.cfg.chip) = false) :
    exec .i2cProbe s = .next s.accept.probed.finish := by
  rw [exec_i2cProbe, hok, operate_true]
  exact congrArg (fun x => Host.Outcome.next (State.finish x)) (if_neg (Bool.eq_false_iff.1 h))

/-- A device present on chip C or D (R116). -/
theorem exec_i2cProbe_of_check (hok : hasI2c s.cfg.chip = true)
    (h : (s.accept.probed.status.present && checksVoltage s.cfg.chip) = true) :
    exec .i2cProbe s =
      .next (s.accept.probed.voltageLowCheck.2.setR s.accept.probed.voltageLowCheck.1).finish := by
  rw [exec_i2cProbe, hok, operate_true]
  exact congrArg (fun x => Host.Outcome.next (State.finish x)) (if_pos h)

end

/-! ### Where the rules write nothing -/

theorem mem_memRead (a : Byte) (u : State) : (u.memRead a).2.env.mem = u.env.mem := by
  obtain ⟨evs, hr, ht, -⟩ := transports_memRead a u
  rw [ht.env, mem_foldl_registerRead hr]

theorem mem_i2cRead (a : Byte) (u : State) : (u.i2cRead a).2.env.mem = u.env.mem := by
  obtain ⟨st, v, h⟩ := i2cRead_eq a u
  rw [h, emits_env, mem_foldl_i2cRead]

theorem mem_probed (u : State) : u.probed.env.mem = u.env.mem :=
  mem_foldl_empty (d := u.cfg.devAddr) (st := (u.emit (.i2cBegin u.cfg.devAddr)).env.nextStatus) u.env

/-- A flag accessor that reports no write needed has only read (R181). -/
theorem mem_flagSet_of_not_wrNeeded {reg mask : Byte} {want : Bool} {u : State}
    (h : (u.flagSet reg mask want).status.wrNeeded = false) : (u.flagSet reg mask want).env.mem = u.env.mem := by
  have hd : flagDiffers (u.memRead reg).1 mask want = false := h
  simp only [State.flagSet, hd, Bool.false_eq_true, if_false, setStatus_env, mem_memRead]

/-- A voltage-low check that reports no re-initialisation has only read (R116). -/
theorem mem_voltageLowCheck_of_zero {u : State} (h : u.voltageLowCheck.1 = 0x00#8) :
    u.voltageLowCheck.2.env.mem = u.env.mem := by
  cases hv : anyBitSet (u.i2cRead u.cfg.regVl).1 u.cfg.vlMask with
  | true =>
    simp only [State.voltageLowCheck, hv, if_true] at h
    exact absurd h (by decide)
  | false => simp only [State.voltageLowCheck, hv, Bool.false_eq_true, if_false, mem_i2cRead]

theorem deviceUnchanged_of_mem_eq {s t : State} (h : t.env.mem = s.env.mem) : DeviceUnchanged s t := fun a => by
  rw [State.deviceByte, h, State.deviceByte]

/-- A probe that reports 0 on `r` is refused, or checks no flag, or finds it clear (R75, R115, R116). -/
theorem deviceUnchanged_of_probe {s t : State} (ht : exec .i2cProbe s = .next t) (hr : t.res.r = 0x00#8) :
    DeviceUnchanged s t := by
  refine deviceUnchanged_of_mem_eq ?_
  cases hok : hasI2c s.cfg.chip with
  | false =>
    cases (exec_i2cProbe_of_not_hasI2c s hok).symm.trans ht
    rfl
  | true =>
    cases hx : s.accept.probed.status.present && checksVoltage s.cfg.chip with
    | false =>
      cases (exec_i2cProbe_of_no_check s hok hx).symm.trans ht
      exact mem_probed s.accept
    | true =>
      cases (exec_i2cProbe_of_check s hok hx).symm.trans ht
      exact (mem_voltageLowCheck_of_zero hr).trans (mem_probed s.accept)

/-- `oor` tells that the index was out of range: nothing is written (R188). -/
theorem deviceUnchanged_of_ramWr_oor {s t : State} (ht : exec .ramWr s = .next t) (hoor : t.status.oor = true) :
    DeviceUnchanged s t := by
  cases hx : ramOutOfRange s.cfg s.ports.a with
  | true =>
    cases (exec_ramWr_of_outOfRange s hx).symm.trans ht
    exact fun _ => rfl
  | false =>
    cases (exec_ramWr_of_inRange s hx).symm.trans ht
    have hst : (s.accept.memWrite (ramAddr s.cfg s.ports.a) s.ports.b).status = Status.zero :=
      (carries_memWrite _ _).status
    rw [finish_status, hst] at hoor
    exact absurd hoor Bool.false_ne_true

/-- Settles O16: pin events and events at the oracle store nothing, and the accessors, the probe and the RAM write tell by
their results that they did not write. -/
theorem nothingStoredWhereNothingIsWritten : Obligations.NothingStoredWhereNothingIsWritten := by
  intro i s t ht h
  obtain ⟨t', evs, ht', hend, hpins, -⟩ := eachChipUsesItsTransport i s
  cases ht'.symm.trans ht
  obtain ⟨-, -, -, henv⟩ := hend
  obtain hc | hm | ⟨hi, hwr⟩ | ⟨rfl, hr⟩ | ⟨rfl, hoor⟩ := h
  · exact deviceUnchanged_of_mem_eq (henv ▸ mem_foldl_pin (hpins hc) s.env)
  · exact deviceUnchanged_of_mem_eq (henv ▸ mem_foldl_oracle hm evs)
  · simp only [List.mem_cons, List.not_mem_nil, or_false] at hi
    obtain rfl | rfl := hi
    all_goals
      cases ht
      exact deviceUnchanged_of_mem_eq (mem_flagSet_of_not_wrNeeded hwr)
  · exact deviceUnchanged_of_probe ht hr
  · exact deviceUnchanged_of_ramWr_oor ht hoor

end Sys2Proof.Machine
end

section
/-! PROOF. What the device answers and what it holds: the reference device keeps the bytes written to it (log 4), and a
read presents the next answers of the device and uses them up (R31; log 3). -/

namespace Sys2Proof.Machine

open Sys2Proof

/-! ### Accepted operations, and the dispatch on an I2C chip -/

theorem operate_of_ok {ok : Bool} (h : ok = true) (body : State → State) (s : State) :
    s.operate ok body = .next (body s.accept).finish := by
  rw [h, operate_true]

theorem hasI2c_of_ne {v : Chip} (h : v ≠ .w3) : hasI2c v = true := by
  cases v with
  | w3 => exact absurd rfl h
  | _ => rfl

theorem timeBurstOk_of_ne {p : Params} (h : p.chip ≠ .w3) : timeBurstOk p = true := by
  cases hc : p.chip with
  | w3 => exact absurd hc h
  | a | b | c | d => simp only [timeBurstOk, hc]

theorem ramOutOfRange_eq_false {p : Params} {i : Byte} (h : i.toNat < p.ramSize) : ramOutOfRange p i = false :=
  decide_eq_false (Nat.not_le.2 h)

section
variable {u : State} (h : u.cfg.chip ≠ .w3)
include h

theorem memRead_of_i2c (a : Byte) : u.memRead a = u.i2cRead a := by
  cases hc : u.cfg.chip with
  | w3 => exact absurd hc h
  | a | b | c | d => simp only [State.memRead, hc]

theorem memWrite_of_i2c (a v : Byte) : u.memWrite a v = u.i2cWrite a v := by
  cases hc : u.cfg.chip with
  | w3 => exact absurd hc h
  | a | b | c | d => simp only [State.memWrite, hc]

theorem timeBurstRead_of_i2c : u.timeBurstRead = u.i2cBurstRead u.cfg.timeBase 7 := by
  cases hc : u.cfg.chip with
  | w3 => exact absurd hc h
  | a | b | c | d => simp only [State.timeBurstRead, hc]

theorem timeBurstWrite_of_i2c (q : Buf) : u.timeBurstWrite q = u.i2cBurstWrite u.cfg.timeBase (q.first 7) := by
  cases hc : u.cfg.chip with
  | w3 => exact absurd hc h
  | a | b | c | d => simp only [State.timeBurstWrite, hc]

end

/-! ### Bytes on a buffer port -/

theorem toList_ofList_getD (l : List Byte) {k : Nat} (h : k < 8) : (Buf.ofList l).toList.getD k 0 = l.getD k 0 := by
  interval_cases k <;> rfl

theorem first_getD (q : Buf) {k n : Nat} (h : k < n) : (q.first n).getD k 0 = q.toList.getD k 0 := by
  rw [List.getD_eq_getElem?_getD, Buf.first, List.getElem?_take_of_lt h, List.getD_eq_getElem?_getD]

/-- Up to eight bytes presented on a port are read back from it. -/
theorem first_ofList {l : List Byte} (h : l.length ≤ 8) : (Buf.ofList l).first l.length = l := by
  refine List.ext_getElem (first_length _ h) fun k hk hl => ?_
  rw [← List.getD_eq_getElem _ 0 hk, ← List.getD_eq_getElem _ 0 hl, first_getD _ hl,
    toList_ofList_getD l (Nat.lt_of_lt_of_le hl h)]

/-! ### The reference device holds what is written -/

section
variable {u : State}

/-- Byte `k` of a burst stands at the `k`-th address after the first (R34, R114). -/
theorem deviceByte_i2cBurstWrite (hm : u.env.mode = .reference) (hwf : u.env.mem.wf = true) (a : Byte) {vs : List Byte}
    (hl : vs.length ≤ 8) {k : Nat} (hk : k < vs.length) :
    (u.i2cBurstWrite a vs).deviceByte (a + BitVec.ofNat 8 k) = vs.getD k 0 := by
  obtain ⟨st, h⟩ := i2cBurstWrite_eq a vs u
  rw [h, State.deviceByte, emits_env, env_foldl_i2cWrite_reference _ _ _ _ _ hm]
  exact read_writeFrom vs _ a hwf (hl.trans (by decide)) hk

/-- A single register is a burst of one byte (R112). -/
theorem deviceByte_i2cWrite (hm : u.env.mode = .reference) (hwf : u.env.mem.wf = true) (a v : Byte) :
    (u.i2cWrite a v).deviceByte a = v := by
  have h := deviceByte_i2cBurstWrite hm hwf a (vs := [v]) (by simp) (k := 0) Nat.zero_lt_one
  rwa [show a + BitVec.ofNat 8 0 = a from BitVec.add_zero a] at h

theorem deviceByte_memWrite (hc : u.cfg.chip ≠ .w3) (hm : u.env.mode = .reference) (hwf : u.env.mem.wf = true)
    (a v : Byte) : (u.memWrite a v).deviceByte a = v := by
  rw [memWrite_of_i2c hc, deviceByte_i2cWrite hm hwf]

theorem deviceByte_timeBurstWrite (hc : u.cfg.chip ≠ .w3) (hm : u.env.mode = .reference) (hwf : u.env.mem.wf = true)
    (q : Buf) {k : Nat} (hk : k < 7) :
    (u.timeBurstWrite q).deviceByte (u.cfg.timeBase + BitVec.ofNat 8 k) = q.toList.getD k 0 := by
  have hl : (q.first 7).length = 7 := first_length q (by decide)
  rw [timeBurstWrite_of_i2c hc, deviceByte_i2cBurstWrite hm hwf _ (by rw [hl]; decide) (hk.trans_eq hl.symm),
    first_getD q hk]

/-- The time's burst writes the bytes presented on `rbuf` (R146). -/
theorem deviceByte_timeBurstWrite_rbuf (hc : u.cfg.chip ≠ .w3) (hm : u.env.mode = .reference)
    (hwf : u.env.mem.wf = true) {k : Nat} (hk : k < 7) :
    (u.timeBurstWrite u.res.rbuf).deviceByte (u.cfg.timeBase + BitVec.ofNat 8 k) =
      (u.timeBurstWrite u.res.rbuf).res.rbuf.toList.getD k 0 := by
  rw [deviceByte_timeBurstWrite hc hm hwf _ hk, (carries_timeBurstWrite _).res]

end

/-- Settles O17: acceptance and end do not touch the device. -/
theorem referenceDeviceHoldsWhatIsWritten : Obligations.ReferenceDeviceHoldsWhatIsWritten := by
  intro s hc hm hwf
  have hok := hasI2c_of_ne hc
  refine ⟨⟨_, (exec_i2cWr s).trans (operate_of_ok hok _ s), ?_⟩, ⟨_, exec_regWr s, ?_⟩,
    fun hr => ⟨_, exec_ramWr_of_inRange s (ramOutOfRange_eq_false hr), ?_⟩,
    fun h1 h8 => ⟨_, (exec_i2cBwr s).trans (operate_of_ok (by rw [hok, burstLengthOk_iff.2 ⟨h1, h8⟩]; rfl) _ s),
      fun k hk => ?_⟩,
    ⟨_, exec_timeSet s, fun k hk => ?_⟩⟩
  · exact deviceByte_i2cWrite (u := s.accept) hm hwf s.ports.a s.ports.b
  · exact deviceByte_memWrite (u := s.accept) hc hm hwf s.ports.a s.ports.b
  · exact deviceByte_memWrite (u := s.accept) hc hm hwf (ramAddr s.cfg s.ports.a) s.ports.b
  · have hn := first_length s.ports.buf h8
    exact (deviceByte_i2cBurstWrite (u := s.accept) hm hwf s.ports.a (hn.trans_le h8) (hk.trans_eq hn.symm)).trans
      (first_getD _ hk)
  · exact deviceByte_timeBurstWrite_rbuf (u := s.accept.setRbuf (timeEncode s.cfg.chip s.cfg s.ports.t)) hc hm hwf hk

/-! ### The reference device answers with what it holds -/

/-- The pointer advances at each read (R25). -/
theorem bytesAhead_reference (n : Nat) (e : Env) (hm : e.mode = .reference) :
    e.bytesAhead n = (addressesFrom e.ptr n).map fun x => e.mem.read x.toNat := by
  induction n generalizing e with
  | zero => rfl
  | succ n ih =>
    have hread : e.after (.i2cRead e.nextByte) = { e with ptr := e.ptr + 1 } := by simp [Env.after, hm]
    rw [Env.bytesAhead, ih _ ((mode_after e _).trans hm), hread, addressesFrom_succ]
    simp [Env.nextByte, hm]

section
variable {u : State}

/-- The bytes of a burst are those at the consecutive addresses (R34, R113). -/
theorem i2cBurstRead_reference (hm : u.env.mode = .reference) (a : Byte) (n : Nat) :
    (u.i2cBurstRead a n).1 = (addressesFrom a n).map u.deviceByte := by
  obtain ⟨st, h⟩ := i2cAddress_eq a u
  rw [State.i2cBurstRead, readMany_i2cReadByte, h, emit_eq_emits, ← emits_append, emits_env]
  have := env_foldl_address_reference u.cfg a st n u.env hm
  simp only [List.cons_append, List.nil_append, this]
  exact bytesAhead_reference n { u.env with ptr := a, fresh := false } hm

theorem i2cBurstRead_reference_getD (hm : u.env.mode = .reference) (a : Byte) {k n : Nat} (hk : k < n) :
    (u.i2cBurstRead a n).1.getD k 0 = u.deviceByte (a + BitVec.ofNat 8 k) := by
  rw [i2cBurstRead_reference hm]
  simp [addressesFrom, hk]

theorem i2cRead_reference (hm : u.env.mode = .reference) (a : Byte) : (u.i2cRead a).1 = u.deviceByte a := by
  have h := i2cBurstRead_reference_getD hm a Nat.zero_lt_one
  rwa [show a + BitVec.ofNat 8 0 = a from BitVec.add_zero a] at h

theorem memRead_reference (hc : u.cfg.chip ≠ .w3) (hm : u.env.mode = .reference) (a : Byte) :
    (u.memRead a).1 = u.deviceByte a := by
  rw [memRead_of_i2c hc, i2cRead_reference hm]

theorem timeBurstRead_reference_getD (hc : u.cfg.chip ≠ .w3) (hm : u.env.mode = .reference) {k : Nat} (hk : k < 7) :
    u.timeBurstRead.1.getD k 0 = u.deviceByte (u.cfg.timeBase + BitVec.ofNat 8 k) := by
  rw [timeBurstRead_of_i2c hc, i2cBurstRead_reference_getD hm _ hk]

end

/-- Settles O18: acceptance does not touch the device. -/
theorem referenceDeviceAnswersWhatItHolds : Obligations.ReferenceDeviceAnswersWhatItHolds := by
  intro s hc hm
  have hok := hasI2c_of_ne hc
  refine ⟨⟨_, (exec_i2cRd s).trans (operate_of_ok hok _ s), ?_⟩, ⟨_, exec_regRd s, ?_⟩,
    fun hr => ⟨_, exec_ramRd_of_inRange s (ramOutOfRange_eq_false hr), ?_⟩,
    fun h1 h8 => ⟨_, (exec_i2cBrd s).trans (operate_of_ok (by rw [hok, burstLengthOk_iff.2 ⟨h1, h8⟩]; rfl) _ s),
      fun k hk => ?_⟩,
    ⟨_, (exec_timeGet s).trans (operate_of_ok (timeBurstOk_of_ne hc) _ s), fun k hk => ?_⟩⟩
  · exact i2cRead_reference (u := s.accept) hm s.ports.a
  · exact memRead_reference (u := s.accept) hc hm s.ports.a
  · exact memRead_reference (u := s.accept) hc hm (ramAddr s.cfg s.ports.a)
  · exact (toList_ofList_getD _ (hk.trans_le h8)).trans (i2cBurstRead_reference_getD (u := s.accept) hm s.ports.a hk)
  · exact (toList_ofList_getD _ (hk.trans (by decide))).trans (timeBurstRead_reference_getD (u := s.accept) hc hm hk)

/-! ### Given answers are taken in order -/

theorem bitByte_anyBitSet (v mask : Byte) :
    bitByte (anyBitSet v mask) = if v &&& mask ≠ 0x00#8 then 0x01#8 else 0x00#8 := by
  simp [bitByte, anyBitSet]

theorem bitByte_bne (x y : Byte) : bitByte (x != y) = if x ≠ y then 0x01#8 else 0x00#8 := by
  simp [bitByte]

theorem flagDiffers_iff (cur mask : Byte) (want : Bool) :
    flagDiffers cur mask want = true ↔ cur &&& mask ≠ if want then mask else 0x00#8 := by
  simp [flagDiffers, flagTarget]

/-- The flag `RUN.SET` asks for (R194). -/
theorem runWanted_spec (p : Params) (c : Bool) : RunWanted p c (runWanted p c) :=
  ⟨fun h => by simp [runWanted, h], fun h => by simp [runWanted, h]⟩

/-- Every operation that reads one register, from what one register read answers and uses up, and from what the write of
a flag accessor leaves of the answers. -/
theorem oneByteAnswered_of_memRead {s : State} {v : Byte} {used : Env → Prop}
    (hread : ∀ a, (s.accept.memRead a).1 = v ∧ used (s.accept.memRead a).2.env)
    (hwrite : ∀ a x, used ((s.accept.memRead a).2.memWrite a x).env) : OneByteAnswered s v used := by
  have hflag : ∀ reg mask want, used (s.accept.flagSet reg mask want).env ∧
      ((s.accept.flagSet reg mask want).status.wrNeeded = true ↔ v &&& mask ≠ if want then mask else 0x00#8) := by
    intro reg mask want
    refine ⟨?_, ?_⟩
    · cases hd : flagDiffers (s.accept.memRead reg).1 mask want with
      | true => simpa only [State.flagSet, hd, if_true, setStatus_env] using hwrite reg _
      | false => simpa only [State.flagSet, hd, Bool.false_eq_true, if_false, setStatus_env] using (hread reg).2
    · rw [← flagDiffers_iff, ← (hread reg).1]
      rfl
  have hget : ∀ reg mask, bitByte (s.accept.flagGet reg mask).1 = if v &&& mask ≠ 0x00#8 then 0x01#8 else 0x00#8 :=
    fun reg mask => by rw [← bitByte_anyBitSet, ← (hread reg).1]; rfl
  refine ⟨⟨_, exec_regRd s, hread _⟩, fun hr => ⟨_, exec_ramRd_of_inRange s (ramOutOfRange_eq_false hr), hread _⟩,
    ⟨_, exec_flagGet s, hget _ _, (hread _).2⟩, ⟨_, exec_runGet s, (hread _).2, ?_⟩, ⟨_, exec_flagSet s, hflag _ _ _⟩,
    ⟨_, _, exec_runSet s, (hflag _ _ _).1, runWanted_spec s.cfg s.ports.c, (hflag _ _ _).2⟩⟩
  rw [← hget s.cfg.runReg, ← bitByte_bne]
  rfl

theorem timeBurstRead_of_w3 {u : State} (h : u.cfg.chip = .w3) :
    u.timeBurstRead = u.w3BurstRead u.cfg.burstRd u.cfg.burstRdLen := by
  simp only [State.timeBurstRead, h]

theorem timeBurstOk_of_w3 {p : Params} (h : p.chip = .w3) : timeBurstOk p = burstLengthOk p.burstRdLen := by
  simp only [timeBurstOk, h]

/-- Bytes read and presented from index 0. -/
theorem first_ofList_of_eq {l bytes : List Byte} (h : l = bytes) (h8 : bytes.length ≤ 8) :
    (Buf.ofList l).first bytes.length = bytes := by
  rw [h, first_ofList h8]

/-- The byte a read answers is presented on `r`. -/
theorem answered_setR {got : Byte × State} {v : Byte} {used : Env → Prop} (hr : got.1 = v) (hu : used got.2.env) :
    (got.2.setR got.1).finish.res.r = v ∧ used (got.2.setR got.1).finish.env := ⟨hr, hu⟩

section
variable {s : State}

/-- One byte on the 3-wire line: the next eight levels (R93, R100). -/
theorem answered_levels {given rest : List Bool} {v : Byte} (hc : s.cfg.chip = .w3)
    (h : s.env.levels = given ++ rest) (hv : SampledAs given v) :
    (∀ i ∈ [Instr.serRdb, .w3Rd], ∃ t, exec i s = .next t ∧ t.res.r = v ∧ t.env.levels = rest) ∧
      OneByteAnswered s v (fun e => e.levels = rest) := by
  have hok : hasSerial s.cfg.chip = true := by rw [hc]; rfl
  have hread a := memRead_given_levels (s := s.accept) a hc h hv
  refine ⟨fun i hi => ?_, oneByteAnswered_of_memRead (fun a => ?_) fun a x => ?_⟩
  · simp only [List.mem_cons, List.not_mem_nil, or_false] at hi
    obtain rfl | rfl := hi
    · obtain ⟨hr, hl⟩ := serialRead_given (s := s.accept) h hv
      exact ⟨_, (exec_serRdb s).trans (operate_of_ok hok _ s), answered_setR (used := fun e => e.levels = rest) hr hl⟩
    · obtain ⟨hr, hl⟩ := w3Read_given (s := s.accept) s.ports.a h hv
      exact ⟨_, (exec_w3Rd s).trans (operate_of_ok hok _ s), answered_setR (used := fun e => e.levels = rest) hr hl⟩
  · obtain ⟨hr, hl, -⟩ := hread a
    exact ⟨hr, hl⟩
  · obtain ⟨-, hl, hcfg⟩ := hread a
    exact (memWrite_levels a x _ (hcfg ▸ hc)).trans hl

/-- One byte from the bus (R111). -/
theorem answered_bytes {rest : List Byte} {v : Byte} (hc : s.cfg.chip ≠ .w3) (hm : s.env.mode = .oracle)
    (h : s.env.bytes = v :: rest) :
    (∃ t, exec .i2cRd s = .next t ∧ t.res.r = v ∧ t.env.bytes = rest) ∧
      OneByteAnswered s v (fun e => e.bytes = rest) := by
  have hread a := memRead_given_bytes (s := s.accept) a hc hm h
  obtain ⟨hr, henv⟩ := i2cRead_given s.ports.a s.accept hm h
  refine ⟨⟨_, (exec_i2cRd s).trans (operate_of_ok (hasI2c_of_ne hc) _ s), hr, congrArg Env.bytes henv⟩,
    oneByteAnswered_of_memRead (fun a => ?_) fun a x => ?_⟩
  · obtain ⟨hr, hb, -⟩ := hread a
    exact ⟨hr, hb⟩
  · obtain ⟨-, hb, hmode, hcfg⟩ := hread a
    exact (memWrite_bytes a x _ (hcfg ▸ hc) hmode).trans hb

/-- A burst on the 3-wire line (R102, R145). -/
theorem answered_levelBursts {answers : List (List Bool)} {bytes : List Byte} {rest : List Bool} (hc : s.cfg.chip = .w3)
    (h : s.env.levels = answers.flatten ++ rest) (hv : SampledAll answers bytes) (h1 : 1 ≤ bytes.length)
    (h8 : bytes.length ≤ 8) :
    (s.ports.n.toNat = bytes.length →
      ∃ t, exec .w3Brd s = .next t ∧ t.res.rbuf.first bytes.length = bytes ∧ t.env.levels = rest) ∧
    (s.cfg.burstRdLen = bytes.length →
      ∃ t, exec .timeGet s = .next t ∧ t.res.rbuf.first bytes.length = bytes ∧ t.env.levels = rest) := by
  have hlen : burstLengthOk bytes.length = true := burstLengthOk_iff.2 ⟨h1, h8⟩
  refine ⟨fun hn => ?_, fun hn => ?_⟩
  · obtain ⟨hb, hl⟩ := w3BurstRead_given s.ports.a s.accept h hv
    rw [← hn] at hb hl
    have hok : (hasSerial s.cfg.chip && burstLengthOk s.ports.n.toNat) = true := by rw [hc, hn, hlen]; rfl
    exact ⟨_, (exec_w3Brd s).trans (operate_of_ok hok _ s), first_ofList_of_eq hb h8, hl⟩
  · obtain ⟨hb, hl⟩ := w3BurstRead_given s.cfg.burstRd s.accept h hv
    have hburst : s.accept.timeBurstRead = s.accept.w3BurstRead s.cfg.burstRd bytes.length :=
      hn ▸ timeBurstRead_of_w3 (u := s.accept) hc
    have hok : timeBurstOk s.cfg = true := by rw [timeBurstOk_of_w3 hc, hn, hlen]
    rw [← hburst] at hb hl
    exact ⟨_, (exec_timeGet s).trans (operate_of_ok hok _ s), first_ofList_of_eq hb h8, hl⟩

/-- A burst from the bus (R113, R145). -/
theorem answered_byteBursts {given rest : List Byte} (hc : s.cfg.chip ≠ .w3) (hm : s.env.mode = .oracle)
    (h : s.env.bytes = given ++ rest) :
    (s.ports.n.toNat = given.length → 1 ≤ given.length → given.length ≤ 8 →
      ∃ t, exec .i2cBrd s = .next t ∧ t.res.rbuf.first given.length = given ∧ t.env.bytes = rest) ∧
    (given.length = 7 → ∃ t, exec .timeGet s = .next t ∧ t.res.rbuf.first 7 = given ∧ t.env.bytes = rest) := by
  refine ⟨fun hn h1 h8 => ?_, fun h7 => ?_⟩
  · obtain ⟨hb, hl⟩ := i2cBurstRead_given s.ports.a s.accept hm h
    rw [← hn] at hb hl
    have hok : (hasI2c s.cfg.chip && burstLengthOk s.ports.n.toNat) = true := by
      rw [hasI2c_of_ne hc, hn, burstLengthOk_iff.2 ⟨h1, h8⟩]
      rfl
    exact ⟨_, (exec_i2cBrd s).trans (operate_of_ok hok _ s), first_ofList_of_eq hb h8, hl⟩
  · obtain ⟨hb, hl⟩ := i2cBurstRead_given s.cfg.timeBase s.accept hm h
    have hburst : s.accept.timeBurstRead = s.accept.i2cBurstRead s.cfg.timeBase given.length :=
      h7 ▸ timeBurstRead_of_i2c (u := s.accept) hc
    rw [← hburst] at hb hl
    exact ⟨_, (exec_timeGet s).trans (operate_of_ok (timeBurstOk_of_ne hc) _ s),
      h7 ▸ first_ofList_of_eq hb (by rw [h7]; decide), hl⟩

end

/-! ### The probe -/

theorem checksVoltage_iff {v : Chip} : checksVoltage v = true ↔ v = .c ∨ v = .d := by
  cases v <;> simp [checksVoltage]

/-- The probe's empty transmission takes one status and tests it (R115). -/
theorem probed_given {u : State} {st : Nat} {rest : List Nat} (hm : u.env.mode = .oracle)
    (h : u.env.statuses = st :: rest) :
    u.probed.status.present = decide (st = 0) ∧
      u.probed.env = { u.env with statuses := rest, asked := u.env.asked + 1 } := by
  have hnext : (u.emit (.i2cBegin u.cfg.devAddr)).env.nextStatus = st := by simp [Env.nextStatus, Env.after, hm, h]
  refine ⟨?_, ?_⟩
  · simp only [State.probed, i2cEnd_eq, hnext, setStatus_status]
    exact beq_eq_decide (a := st) (b := 0)
  · simp [State.probed, State.i2cEnd, Env.after, hm, h]

/-- The voltage-low check takes one byte, and a status for each transmission (R116). -/
theorem voltageLowCheck_given {u : State} {v : Byte} {more : List Byte} (hm : u.env.mode = .oracle)
    (h : u.env.bytes = v :: more) :
    u.voltageLowCheck.2.env.bytes = more ∧
    (v &&& u.cfg.vlMask = 0x00#8 → u.voltageLowCheck.2.env.statuses = u.env.statuses.drop 1) ∧
    (v &&& u.cfg.vlMask ≠ 0x00#8 →
      u.voltageLowCheck.2.env.statuses = u.env.statuses.drop (1 + u.cfg.initImage.length)) := by
  obtain ⟨hv, henv⟩ := i2cRead_given u.cfg.regVl u hm h
  by_cases hx : v &&& u.cfg.vlMask = 0x00#8
  · have hbit : anyBitSet v u.cfg.vlMask = false := by simp [anyBitSet, hx]
    simp only [State.voltageLowCheck, hv, hbit, Bool.false_eq_true, if_false, henv]
    exact ⟨trivial, fun _ => (List.drop_one).symm, fun hn => absurd hx hn⟩
  · have hbit : anyBitSet v u.cfg.vlMask = true := by simp [anyBitSet, hx]
    have hmode : (u.i2cRead u.cfg.regVl).2.env.mode = .oracle := by rw [henv]; exact hm
    simp only [State.voltageLowCheck, hv, hbit, if_true, writeImage_env _ _ hmode, henv]
    refine ⟨trivial, fun h0 => absurd h0 hx, fun _ => ?_⟩
    rw [← List.drop_one, List.drop_drop]

/-- The probe on an I2C chip: absent or without a check it ends with its empty transmission, else the voltage-low check
follows (R115, R116). -/
theorem answered_probe {s : State} {st : Nat} {rest : List Nat} (hc : s.cfg.chip ≠ .w3) (hm : s.env.mode = .oracle)
    (h : s.env.statuses = st :: rest) :
    ∃ t, exec .i2cProbe s = .next t ∧ t.status.present = decide (st = 0) ∧
      (st ≠ 0 ∨ s.cfg.chip = .a ∨ s.cfg.chip = .b → t.env.statuses = rest ∧ t.env.bytes = s.env.bytes) ∧
      (st = 0 → s.cfg.chip = .c ∨ s.cfg.chip = .d → ∀ v more, s.env.bytes = v :: more →
        t.env.bytes = more ∧
        (v &&& s.cfg.vlMask = 0x00#8 → t.env.statuses = rest.drop 1) ∧
        (v &&& s.cfg.vlMask ≠ 0x00#8 → t.env.statuses = rest.drop (1 + s.cfg.initImage.length))) := by
  have hok := hasI2c_of_ne hc
  obtain ⟨hp, henv⟩ := probed_given (u := s.accept) hm h
  by_cases hx : st = 0 ∧ (s.cfg.chip = .c ∨ s.cfg.chip = .d)
  · obtain ⟨h0, hcd⟩ := hx
    have hcheck : (s.accept.probed.status.present && checksVoltage s.cfg.chip) = true := by
      rw [hp, decide_eq_true h0, checksVoltage_iff.2 hcd]
      rfl
    refine ⟨_, exec_i2cProbe_of_check s hok hcheck, ?_, fun hab => ?_, fun _ _ v more hb => ?_⟩
    · exact (congrArg Status.present (carries_voltageLowCheck (u := s.accept.probed) hc).status).trans hp
    · obtain hn | ha | hb := hab
      · exact absurd h0 hn
      · rw [ha] at hcd
        exact absurd hcd (by decide)
      · rw [hb] at hcd
        exact absurd hcd (by decide)
    · have hcheck := voltageLowCheck_given (u := s.accept.probed) (v := v) (more := more) (by rw [henv]; exact hm)
        (by rw [henv]; exact hb)
      rwa [henv] at hcheck
  · have hcheck : (s.accept.probed.status.present && checksVoltage s.cfg.chip) = false := by
      rw [hp, Bool.eq_false_iff, Ne, Bool.and_eq_true_iff, decide_eq_true_iff, checksVoltage_iff]
      exact hx
    refine ⟨_, exec_i2cProbe_of_no_check s hok hcheck, hp, fun _ => ?_, fun h0 hcd => absurd ⟨h0, hcd⟩ hx⟩
    rw [finish_env, henv]
    exact ⟨rfl, rfl⟩

/-- Settles O20: one byte and bursts on each transport, and the probe. -/
theorem deviceAnswersAreTakenInOrder : Obligations.DeviceAnswersAreTakenInOrder := by
  refine ⟨fun s given rest v hc h hv => answered_levels hc h hv,
    fun s answers bytes rest hc h hv => ⟨fun hn h1 h8 => (answered_levelBursts hc h hv h1 h8).1 hn,
      fun hn h7 h8 => (answered_levelBursts hc h hv (le_trans (by decide) h7) h8).2 hn⟩,
    fun s v rest hc hm h => answered_bytes hc hm h, fun s given rest hc hm h => answered_byteBursts hc hm h,
    fun s st rest hc hm h => answered_probe hc hm h⟩

end Sys2Proof.Machine
end

section
/-! PROOF. From the `op` port to the outcome of a step: the opcode format (R51, R52), what a step runs (R50), and the
requests that are refused (R75). -/

namespace Sys2Proof.Machine

open Sys2Proof

/-! ### The decoder and the encoder -/

/-- A lookup returns a row of the map it searches. -/
theorem mem_of_lookupOpcode {op : Byte} {i : Instr} {m : List (Byte × Instr)} (h : lookupOpcode op m = some i) :
    (op, i) ∈ m := by
  induction m with
  | nil => exact absurd h (by simp [lookupOpcode])
  | cons row m ih =>
    obtain ⟨k, j⟩ := row
    by_cases hk : k = op
    · obtain rfl : j = i := by simpa [lookupOpcode, hk] using h
      exact hk ▸ List.mem_cons_self
    · exact List.mem_cons_of_mem _ (ih (by simpa [lookupOpcode, hk] using h))

/-- Family and function number spell the opcode that the map gives the operation, row by row. -/
theorem opcodeMap_map_encode : opcodeMap.map (fun row => encode row.2) = opcodeMap.map (fun row => row.1) := rfl

theorem encode_of_mem_opcodeMap {op : Byte} {i : Instr} (h : (op, i) ∈ opcodeMap) : encode i = op :=
  List.map_inj_left.1 opcodeMap_map_encode (op, i) h

theorem decode_of_lookup_some {op : Byte} {i : Instr} (h : lookupOpcode op opcodeMap = some i) :
    decode op = .ok i := by
  rw [decode, h]

theorem decode_of_lookup_none {op : Byte} (h : lookupOpcode op opcodeMap = none) :
    decode op = .error (.reservedOpcode op) := by
  rw [decode, h]

/-- No two rows of the map share an opcode, so each operation's own row is the one found. -/
theorem decode_encode (i : Instr) : decode (encode i) = .ok i := by
  cases i <;> rfl

theorem encode_of_decode {op : Byte} {i : Instr} (h : decode op = .ok i) : encode i = op := by
  cases hl : lookupOpcode op opcodeMap with
  | some j =>
    cases (decode_of_lookup_some hl).symm.trans h
    exact encode_of_mem_opcodeMap (mem_of_lookupOpcode hl)
  | none => cases (decode_of_lookup_none hl).symm.trans h

theorem decode_eq_ok_iff {op : Byte} {i : Instr} : decode op = .ok i ↔ encode i = op :=
  ⟨encode_of_decode, fun h => h ▸ decode_encode i⟩

/-- A byte that no operation has is reserved (R75). -/
theorem decode_of_not_encoded {op : Byte} (h : ∀ i, encode i ≠ op) : decode op = .error (.reservedOpcode op) := by
  cases hl : lookupOpcode op opcodeMap with
  | some i => exact absurd (encode_of_decode (decode_of_lookup_some hl)) (h i)
  | none => exact decode_of_lookup_none hl

/-- Settles O2: the map holds each operation once, at the byte its family and function number spell. -/
theorem decodeAndEncodeAgree : Obligations.DecodeAndEncodeAgree :=
  ⟨decode_encode, fun _ _ => encode_of_decode, fun _ => decode_of_not_encoded⟩

/-- Settles O1: a byte decodes to an operation exactly when it is the operation's encoding, and each encoding is the
word the table lists. -/
theorem opcodeMapWords : Obligations.OpcodeMapWords := by
  unfold Obligations.OpcodeMapWords
  simp only [decode_eq_ok_iff]
  decide

/-! ### What a step runs -/

section
variable {s : State}

/-- An idle block with `start` raised and no reset pending runs the request on its ports (R50). -/
theorem step_of_request (hstart : s.start = true) (hbusy : s.busy = false) (hreset : s.resetIn = none) :
    step s = runRequest s := by
  simp only [step, serve, hstart, hbusy, hreset, Bool.not_false, Bool.and_self, if_true]

theorem runRequest_of_decode_ok {i : Instr} (h : decode s.ports.op = .ok i) : runRequest s = exec i s := by
  simp only [runRequest, h]

theorem runRequest_of_decode_error {e : DecodeError} (h : decode s.ports.op = .error e) :
    runRequest s = .next s.refuse := by
  simp only [runRequest, h]

theorem step_of_no_start (hstart : s.start = false) : step s = .next s.rest := by
  simp only [step, hstart, Bool.false_and, Bool.false_eq_true, if_false]

theorem rest_of_no_move (hstart : s.start = false) (hreset : s.resetIn = none) (hhost : s.host = []) :
    s.rest = s := by
  simp only [State.rest, hreset, hstart, hhost, Bool.false_eq_true, if_false]

theorem rest_of_move {m : HostMove} {ms : List HostMove} (hstart : s.start = false) (hreset : s.resetIn = none)
    (hhost : s.host = m :: ms) : s.rest = State.hostMove m { s with host := ms } := by
  simp only [State.rest, hreset, hstart, hhost, Bool.false_eq_true, if_false]

/-- With `start` low and no reset pending a step is the host's next move (log 11). -/
theorem step_of_move {m : HostMove} {ms : List HostMove} (hstart : s.start = false) (hreset : s.resetIn = none)
    (hhost : s.host = m :: ms) : step s = .next (State.hostMove m { s with host := ms }) := by
  rw [step_of_no_start hstart, rest_of_move hstart hreset hhost]

end

/-- Settles O3: a raised `start` reaches `exec` of the decoded operation; a low one leaves the step to the host. -/
theorem stepRunsDecodedOperation : Obligations.StepRunsDecodedOperation := by
  refine ⟨fun s i hstart hbusy hreset hop => ?_, fun s hstart hreset hhost => ?_,
    fun s r ms hstart hreset hhost => step_of_move hstart hreset hhost,
    fun s ms hstart hreset hhost => step_of_move hstart hreset hhost,
    fun s r k ms hstart hreset hhost => step_of_move hstart hreset hhost⟩
  · rw [step_of_request hstart hbusy hreset, runRequest_of_decode_ok hop]
  · rw [step_of_no_start hstart, rest_of_no_move hstart hreset hhost]

/-! ### Well-formed requests -/

/-- The operations that take their burst length from the port `n`. -/
def portBursts : List Instr := [.w3Brd, .w3Bwr, .i2cBrd, .i2cBwr]

/-- The grounds on which R75 refuses an operation of the map: its transport family is not on the chip, or the length of
its burst is outside 1..8. -/
def IllFormed (i : Instr) (p : Params) (n : BitVec 4) : Prop :=
  (i.family = .serial ∧ p.chip ≠ .w3) ∨ (i.family = .i2c ∧ p.chip = .w3) ∨
    (i ∈ portBursts ∧ ¬ (1 ≤ n.toNat ∧ n.toNat ≤ 8))

section
variable {i : Instr} {p : Params} {n : BitVec 4}

theorem existsOn_iff {f : Family} {v : Chip} :
    f.existsOn v = true ↔ ¬ (f = .serial ∧ v ≠ .w3) ∧ ¬ (f = .i2c ∧ v = .w3) := by
  cases f <;> simp [Family.existsOn]

theorem burstLength_eq_some_iff {k : Nat} :
    i.burstLength p n = some k ↔
      (i ∈ portBursts ∧ n.toNat = k) ∨ (i = .timeGet ∧ p.chip = .w3 ∧ p.burstRdLen = k) := by
  cases i <;> simp [Instr.burstLength, portBursts]

theorem wellFormed_of_no_length (h : i.burstLength p n = none) :
    i.wellFormed p n = i.family.existsOn p.chip := by
  simp only [Instr.wellFormed, h, Bool.and_true]

theorem wellFormed_of_length {k : Nat} (h : i.burstLength p n = some k) :
    i.wellFormed p n = (i.family.existsOn p.chip && burstLengthOk k) := by
  simp only [Instr.wellFormed, h, burstLengthOk]

theorem wellFormed_iff_lengths :
    i.wellFormed p n = true ↔
      i.family.existsOn p.chip = true ∧ ∀ k, i.burstLength p n = some k → 1 ≤ k ∧ k ≤ 8 := by
  cases h : i.burstLength p n with
  | none => simp [wellFormed_of_no_length h]
  | some k => simp [wellFormed_of_length h, burstLengthOk]

/-- An operation is well-formed when R75 has no ground against it and `TIME.GET` finds a legal length register on 3W
(log 15). -/
theorem wellFormed_iff :
    i.wellFormed p n = true ↔
      ¬ IllFormed i p n ∧ (i = .timeGet → p.chip = .w3 → 1 ≤ p.burstRdLen ∧ p.burstRdLen ≤ 8) := by
  have hlengths : (∀ k, i.burstLength p n = some k → 1 ≤ k ∧ k ≤ 8) ↔
      (i ∈ portBursts → 1 ≤ n.toNat ∧ n.toNat ≤ 8) ∧
        (i = .timeGet → p.chip = .w3 → 1 ≤ p.burstRdLen ∧ p.burstRdLen ≤ 8) := by
    simp only [burstLength_eq_some_iff]
    constructor
    · exact fun h => ⟨fun hi => h _ (.inl ⟨hi, rfl⟩), fun hi hc => h _ (.inr ⟨hi, hc, rfl⟩)⟩
    · rintro ⟨hport, hreg⟩ k (⟨hi, rfl⟩ | ⟨hi, hc, rfl⟩)
      · exact hport hi
      · exact hreg hi hc
  rw [wellFormed_iff_lengths, existsOn_iff, hlengths, IllFormed]
  simp only [not_or, not_and_not_right, and_assoc]

/-! The check of each meaning is the well-formedness of its operation. -/

theorem existsOn_serial (v : Chip) : Family.serial.existsOn v = hasSerial v := by
  cases v <;> rfl

theorem existsOn_i2c (v : Chip) : Family.i2c.existsOn v = hasI2c v := by
  cases v <;> rfl

theorem wellFormed_serial (hf : i.family = .serial) (hl : i.burstLength p n = none) :
    i.wellFormed p n = hasSerial p.chip := by
  rw [wellFormed_of_no_length hl, hf, existsOn_serial]

theorem wellFormed_serialBurst (hf : i.family = .serial) (hl : i.burstLength p n = some n.toNat) :
    i.wellFormed p n = (hasSerial p.chip && burstLengthOk n.toNat) := by
  rw [wellFormed_of_length hl, hf, existsOn_serial]

theorem wellFormed_i2c (hf : i.family = .i2c) (hl : i.burstLength p n = none) :
    i.wellFormed p n = hasI2c p.chip := by
  rw [wellFormed_of_no_length hl, hf, existsOn_i2c]

theorem wellFormed_i2cBurst (hf : i.family = .i2c) (hl : i.burstLength p n = some n.toNat) :
    i.wellFormed p n = (hasI2c p.chip && burstLengthOk n.toNat) := by
  rw [wellFormed_of_length hl, hf, existsOn_i2c]

theorem wellFormed_timeGet : Instr.timeGet.wellFormed p n = timeBurstOk p := by
  cases hc : p.chip <;>
    simp [Instr.wellFormed, Instr.family, Family.existsOn, Instr.burstLength, timeBurstOk, burstLengthOk, hc]

end

/-! ### An accepted operation leaves `ill` low -/

section
variable {s b : State}

/-- Reaching the device does not touch `ill`, and neither does presenting what the device answered. -/
theorem ill_of_carries (h : Carries s.accept b) : b.status.ill = false := by
  rw [h.status]
  rfl

theorem ill_setR (h : Carries s.accept b) (v : Byte) : (b.setR v).status.ill = false := by
  rw [setR_status, ill_of_carries h]

theorem ill_setRbuf (h : Carries s.accept b) (q : Buf) : (b.setRbuf q).status.ill = false := by
  rw [setRbuf_status, ill_of_carries h]

theorem ill_flagSet (reg mask : Byte) (want : Bool) : (s.accept.flagSet reg mask want).status.ill = false := by
  obtain ⟨_, _, _, -, -, hstatus, -⟩ := performs_flagSet reg mask want s.accept
  rw [hstatus]
  rfl

theorem ill_ite {ok : Bool} {c : State} (hb : b.status.ill = false) (hc : c.status.ill = false) :
    (if ok then b else c).status.ill = false := by
  split
  · exact hb
  · exact hc

theorem ill_probed : s.accept.probed.status.ill = false := rfl

/-- The voltage-low check of the probe presents on `r` alone. -/
theorem ill_voltageLowCheck {u : State} (hc : u.cfg.chip ≠ .w3) (hu : u.status.ill = false) (v : Byte) :
    (u.voltageLowCheck.2.setR v).status.ill = false := by
  rw [setR_status, (carries_voltageLowCheck hc).status, hu]

end

/-! ### Refusal -/

/-- The block refuses `i` unless it is well-formed, and ends a well-formed one with `ill` low (R75). -/
def RefusedUnlessWellFormed (i : Instr) (s : State) : Prop :=
  (i.wellFormed s.cfg s.ports.n = true ∧ ∃ t, exec i s = .next t ∧ t.status.ill = false) ∨
    (i.wellFormed s.cfg s.ports.n = false ∧ exec i s = .next s.refuse)

theorem refusedUnlessWellFormed_of_operate {i : Instr} {s : State} {ok : Bool} {body : State → State}
    (he : exec i s = s.operate ok body) (hok : i.wellFormed s.cfg s.ports.n = ok)
    (hill : ok = true → (body s.accept).status.ill = false) : RefusedUnlessWellFormed i s := by
  obtain ⟨h, ho⟩ | ⟨h, ho⟩ := operate_cases ok body s
  · exact .inl ⟨hok.trans h, _, he.trans ho, hill h⟩
  · exact .inr ⟨hok.trans h, he.trans ho⟩

/-- The families but serial and I2C are accepted on every chip, `TIME.GET` aside. -/
theorem refusedUnlessWellFormed_of_operate_true {i : Instr} {s : State} {body : State → State}
    (he : exec i s = s.operate true body) (hok : i.wellFormed s.cfg s.ports.n = true)
    (hill : (body s.accept).status.ill = false) : RefusedUnlessWellFormed i s :=
  refusedUnlessWellFormed_of_operate he hok fun _ => hill

/-- Each meaning checks the well-formedness of its operation, and no body raises `ill`. -/
theorem refusedUnlessWellFormed (i : Instr) (s : State) : RefusedUnlessWellFormed i s := by
  cases i with
  | serWrb =>
    exact refusedUnlessWellFormed_of_operate (exec_serWrb s) (wellFormed_serial rfl rfl) fun hok =>
      ill_of_carries (carries_sendByte (accept_chip_of_hasSerial hok) _)
  | serRdb =>
    exact refusedUnlessWellFormed_of_operate (exec_serRdb s) (wellFormed_serial rfl rfl) fun hok =>
      ill_setR (carries_serialRead (accept_chip_of_hasSerial hok)) _
  | txnBegin =>
    exact refusedUnlessWellFormed_of_operate (exec_txnBegin s) (wellFormed_serial rfl rfl) fun hok =>
      ill_of_carries (carries_txnBegin (accept_chip_of_hasSerial hok))
  | txnEnd =>
    exact refusedUnlessWellFormed_of_operate (exec_txnEnd s) (wellFormed_serial rfl rfl) fun hok =>
      ill_of_carries (carries_txnEnd (accept_chip_of_hasSerial hok))
  | w3Rd =>
    exact refusedUnlessWellFormed_of_operate (exec_w3Rd s) (wellFormed_serial rfl rfl) fun hok =>
      ill_setR (carries_w3Read (accept_chip_of_hasSerial hok) _) _
  | w3Wr =>
    exact refusedUnlessWellFormed_of_operate (exec_w3Wr s) (wellFormed_serial rfl rfl) fun hok =>
      ill_of_carries (carries_w3Write (accept_chip_of_hasSerial hok) _ _)
  | w3Brd =>
    exact refusedUnlessWellFormed_of_operate (exec_w3Brd s) (wellFormed_serialBurst rfl rfl) fun hok =>
      ill_setRbuf (carries_w3BurstRead (accept_chip_of_hasSerial (Bool.and_eq_true_iff.1 hok).1) _ _) _
  | w3Bwr =>
    exact refusedUnlessWellFormed_of_operate (exec_w3Bwr s) (wellFormed_serialBurst rfl rfl) fun hok =>
      ill_of_carries (carries_w3BurstWrite (accept_chip_of_hasSerial (Bool.and_eq_true_iff.1 hok).1) _ _)
  | i2cRd =>
    exact refusedUnlessWellFormed_of_operate (exec_i2cRd s) (wellFormed_i2c rfl rfl) fun hok =>
      ill_setR (carries_i2cRead (accept_chip_of_hasI2c hok) _) _
  | i2cWr =>
    exact refusedUnlessWellFormed_of_operate (exec_i2cWr s) (wellFormed_i2c rfl rfl) fun hok =>
      ill_of_carries (carries_i2cWrite (accept_chip_of_hasI2c hok) _ _)
  | i2cBrd =>
    exact refusedUnlessWellFormed_of_operate (exec_i2cBrd s) (wellFormed_i2cBurst rfl rfl) fun hok =>
      ill_setRbuf (carries_i2cBurstRead (accept_chip_of_hasI2c (Bool.and_eq_true_iff.1 hok).1) _ _) _
  | i2cBwr =>
    exact refusedUnlessWellFormed_of_operate (exec_i2cBwr s) (wellFormed_i2cBurst rfl rfl) fun hok =>
      ill_of_carries (carries_i2cBurstWrite (accept_chip_of_hasI2c (Bool.and_eq_true_iff.1 hok).1) _ _)
  | i2cProbe =>
    exact refusedUnlessWellFormed_of_operate (exec_i2cProbe s) (wellFormed_i2c rfl rfl) fun hok =>
      ill_ite (ill_voltageLowCheck (u := s.accept.probed) (accept_chip_of_hasI2c hok) ill_probed _) ill_probed
  | timeGet =>
    exact refusedUnlessWellFormed_of_operate (exec_timeGet s) wellFormed_timeGet fun _ =>
      congrArg Status.ill carries_timeBurstRead.status
  | timeSet =>
    exact refusedUnlessWellFormed_of_operate_true (exec_timeSet s) rfl
      (congrArg Status.ill (carries_timeBurstWrite _).status)
  | flagSet => exact refusedUnlessWellFormed_of_operate_true (exec_flagSet s) rfl (ill_flagSet ..)
  | runSet => exact refusedUnlessWellFormed_of_operate_true (exec_runSet s) rfl (ill_flagSet ..)
  | flagGet => exact refusedUnlessWellFormed_of_operate_true (exec_flagGet s) rfl (ill_setR (carries_memRead _) _)
  | runGet => exact refusedUnlessWellFormed_of_operate_true (exec_runGet s) rfl (ill_setR (carries_memRead _) _)
  | regRd => exact refusedUnlessWellFormed_of_operate_true (exec_regRd s) rfl (ill_setR (carries_memRead _) _)
  | regWr => exact refusedUnlessWellFormed_of_operate_true (exec_regWr s) rfl (ill_of_carries (carries_memWrite _ _))
  | ramRd =>
    exact refusedUnlessWellFormed_of_operate_true (exec_ramRd s) rfl (ill_ite rfl (ill_setR (carries_memRead _) _))
  | ramWr =>
    exact refusedUnlessWellFormed_of_operate_true (exec_ramWr s) rfl
      (ill_ite rfl (ill_of_carries (carries_memWrite _ _)))
  | bcdDec => exact refusedUnlessWellFormed_of_operate_true (exec_bcdDec s) rfl rfl
  | bcdEnc => exact refusedUnlessWellFormed_of_operate_true (exec_bcdEnc s) rfl rfl
  | timeDec3W => exact refusedUnlessWellFormed_of_operate_true (exec_timeDec3W s) rfl rfl
  | timeDecA => exact refusedUnlessWellFormed_of_operate_true (exec_timeDecA s) rfl rfl
  | timeDecB => exact refusedUnlessWellFormed_of_operate_true (exec_timeDecB s) rfl rfl
  | timeDecC => exact refusedUnlessWellFormed_of_operate_true (exec_timeDecC s) rfl rfl
  | timeDecD => exact refusedUnlessWellFormed_of_operate_true (exec_timeDecD s) rfl rfl
  | timeEnc3W => exact refusedUnlessWellFormed_of_operate_true (exec_timeEnc3W s) rfl rfl
  | timeEncA => exact refusedUnlessWellFormed_of_operate_true (exec_timeEncA s) rfl rfl
  | timeEncB => exact refusedUnlessWellFormed_of_operate_true (exec_timeEncB s) rfl rfl
  | timeEncC => exact refusedUnlessWellFormed_of_operate_true (exec_timeEncC s) rfl rfl
  | timeEncD => exact refusedUnlessWellFormed_of_operate_true (exec_timeEncD s) rfl rfl
  | alm4Dec => exact refusedUnlessWellFormed_of_operate_true (exec_alm4Dec s) rfl rfl
  | alm4Enc => exact refusedUnlessWellFormed_of_operate_true (exec_alm4Enc s) rfl rfl
  | alm3Dec => exact refusedUnlessWellFormed_of_operate_true (exec_alm3Dec s) rfl rfl
  | alm3Enc => exact refusedUnlessWellFormed_of_operate_true (exec_alm3Enc s) rfl rfl
  | almdDec => exact refusedUnlessWellFormed_of_operate_true (exec_almdDec s) rfl rfl
  | almdEnc => exact refusedUnlessWellFormed_of_operate_true (exec_almdEnc s) rfl rfl
  | tcsDec => exact refusedUnlessWellFormed_of_operate_true (exec_tcsDec s) rfl rfl
  | flagEval => exact refusedUnlessWellFormed_of_operate_true (exec_flagEval s) rfl rfl
  | ageDec => exact refusedUnlessWellFormed_of_operate_true (exec_ageDec s) rfl rfl
  | tempDec => exact refusedUnlessWellFormed_of_operate_true (exec_tempDec s) rfl rfl

theorem exec_of_wellFormed {i : Instr} {s : State} (h : i.wellFormed s.cfg s.ports.n = true) :
    ∃ t, exec i s = .next t ∧ t.status.ill = false := by
  obtain ⟨-, ht⟩ | ⟨hf, -⟩ := refusedUnlessWellFormed i s
  · exact ht
  · exact absurd (h.symm.trans hf) Bool.noConfusion

theorem exec_of_not_wellFormed {i : Instr} {s : State} (h : ¬ i.wellFormed s.cfg s.ports.n = true) :
    exec i s = .next s.refuse := by
  obtain ⟨ht, -⟩ | ⟨-, hr⟩ := refusedUnlessWellFormed i s
  · exact absurd ht h
  · exact hr

/-- Settles O4: a byte that is no opcode is refused by the decoder, and an operation exactly when it is not
well-formed. -/
theorem refusedExactlyWhenRequired : Obligations.RefusedExactlyWhenRequired := by
  intro s hstart hbusy hreset
  rw [step_of_request hstart hbusy hreset]
  refine ⟨fun e he => ⟨s.refuse, runRequest_of_decode_error he, refused_refuse s⟩, fun i hi => ?_⟩
  rw [runRequest_of_decode_ok hi]
  exact ⟨fun hground => ⟨s.refuse, exec_of_not_wellFormed fun hwf => (wellFormed_iff.1 hwf).1 hground,
      refused_refuse s⟩,
    fun hground hlen => exec_of_wellFormed (wellFormed_iff.2 ⟨hground, hlen⟩)⟩

end Sys2Proof.Machine
end

section
/-! PROOF. The BCD family (R80 to R82): the two formulas on natural numbers, the decimal digits they move between the
nibbles, and the round trips. -/

namespace Sys2Proof.Machine

open Sys2Proof

/-! ### The formulas -/

/-- Six for each ten turn sixteens into tens: the formula of R80 reads any byte, malformed or not, as ten times its high
nibble and its low one. -/
theorem bcdValue_eq_nibbles (b : Byte) : bcdValue b = 10 * (b.toNat / 16) + b.toNat % 16 := by
  unfold bcdValue
  omega

/-- The largest byte, 0xFF, has the largest value (R80). -/
theorem bcdValue_le (b : Byte) : bcdValue b ≤ 165 := by
  have hb := b.isLt
  rw [bcdValue_eq_nibbles]
  omega

/-- R80 needs no wrap-around on the 8-bit port. -/
theorem bcdDecode_toNat (b : Byte) : (bcdDecode b).toNat = bcdValue b := by
  have hfits : bcdValue b < 2 ^ 8 := (bcdValue_le b).trans_lt (by decide)
  rw [bcdDecode, Nat.shiftRight_eq_div_pow, BitVec.toNat_ofNat]
  exact Nat.mod_eq_of_lt hfits

theorem bcdEncode_toNat (a : Byte) : (bcdEncode a).toNat = (a.toNat + 6 * (a.toNat / 10)) % 256 :=
  BitVec.toNat_ofNat ..

/-- Up to 99 nothing is truncated: each ten of the value becomes a sixteen (R81). -/
theorem bcdEncode_toNat_of_le {a : Byte} (ha : a.toNat ≤ 99) :
    (bcdEncode a).toNat = 16 * (a.toNat / 10) + a.toNat % 10 := by
  rw [bcdEncode_toNat]
  omega

theorem bcdEncode_nibbles {a : Byte} (ha : a.toNat ≤ 99) :
    (bcdEncode a).toNat / 16 = a.toNat / 10 ∧ (bcdEncode a).toNat % 16 = a.toNat % 10 := by
  rw [bcdEncode_toNat_of_le ha]
  omega

/-! ### The round trips (R82) -/

theorem bcdDecode_bcdEncode {v : Byte} (hv : v.toNat ≤ 99) : bcdDecode (bcdEncode v) = v := by
  obtain ⟨htens, hunits⟩ := bcdEncode_nibbles hv
  apply BitVec.eq_of_toNat_eq
  rw [bcdDecode_toNat, bcdValue_eq_nibbles, htens, hunits]
  exact Nat.div_add_mod v.toNat 10

theorem bcdEncode_bcdDecode {b : Byte} (hhi : b.toNat / 16 ≤ 9) (hlo : b.toNat % 16 ≤ 9) :
    bcdEncode (bcdDecode b) = b := by
  have hvalue : (bcdDecode b).toNat = 10 * (b.toNat / 16) + b.toNat % 16 := by
    rw [bcdDecode_toNat, bcdValue_eq_nibbles]
  apply BitVec.eq_of_toNat_eq
  rw [bcdEncode_toNat_of_le (by omega), hvalue]
  omega

/-! ### The operations -/

/-- An operation that only presents a byte on `r` emits no event (R30). -/
theorem endedPure_setR (s : State) (v : Byte) : EndedPure s (s.accept.setR v).finish :=
  endedPure_finish (performs_setR (performs_refl _) v) rfl

/-- `BCD.DEC` presents the decoded operand, whatever the byte. -/
theorem exec_bcdDec_next (s : State) : exec .bcdDec s = .next (s.accept.setR (bcdDecode s.ports.a)).finish := by
  rw [exec_bcdDec, operate_true, accept_ports]

/-- `BCD.ENC` presents the encoded operand, whatever the byte. -/
theorem exec_bcdEnc_next (s : State) : exec .bcdEnc s = .next (s.accept.setR (bcdEncode s.ports.a)).finish := by
  rw [exec_bcdEnc, operate_true, accept_ports]

/-- Settles O24: what the first operation presents on `r` is the operand of the second, so the formulas' round trips are
the operations'. -/
theorem bcdRoundTrips : Obligations.BcdRoundTrips :=
  ⟨fun s hv => ⟨_, _, exec_bcdEnc_next s, exec_bcdDec_next _, bcdDecode_bcdEncode hv⟩,
    fun s hhi hlo => ⟨_, _, exec_bcdDec_next s, exec_bcdEnc_next _, bcdEncode_bcdDecode hhi hlo⟩⟩

/-- Settles O22: the decimal reading holds for every pair of nibbles, so in particular for a well-formed byte. -/
theorem bcdDecodeIsTheFormula : Obligations.BcdDecodeIsTheFormula := fun s =>
  have hr := bcdDecode_toNat s.ports.a
  ⟨_, exec_bcdDec_next s, endedPure_setR s _, hr, hr.trans_le (bcdValue_le _),
    fun _ _ => hr.trans (bcdValue_eq_nibbles _)⟩

/-- Settles O23: the nibbles are the digits as long as the sum is not truncated. -/
theorem bcdEncodeIsTheFormula : Obligations.BcdEncodeIsTheFormula := fun s =>
  ⟨_, exec_bcdEnc_next s, endedPure_setR s _, bcdEncode_toNat _, bcdEncode_nibbles⟩

end Sys2Proof.Machine
end

section
/-! PROOF. The serial and 3-wire family (R91 to R103): how many events a transfer has, where its events leave the lines,
that a framed transfer moves the enable line at its two ends only, and how each operation ends. -/

namespace Sys2Proof.Machine

open Sys2Proof

/-! ### How many events a transfer has -/

theorem sendEvents_length (settle : Nat) (v : Byte) : (sendEvents settle v).length = 33 := rfl

/-- A sample and its pulse are four events, so a byte received is as long as a byte sent (R93). -/
theorem receiveEvents_length {bits : List Bool} {v : Byte} (h : SampledAs bits v) (settle : Nat) :
    (receiveEvents settle bits).length = 33 := by
  obtain ⟨hlen, -⟩ := h
  simp [receiveEvents, pulseEvents, hlen]

/-- Framing entry, command, data, framing exit (R103). -/
theorem w3WriteEvents_length (p : Params) (cmd : Byte) (data : List Byte) :
    (w3WriteEvents p cmd data).length = 3 + 33 + 33 * data.length + 2 := by
  have hdata : (data.flatMap (sendEvents p.tSettle)).length = 33 * data.length := by
    simp [List.length_flatMap, sendEvents_length, Nat.mul_comm]
  simp only [w3WriteEvents, List.length_append, sendEvents_length, hdata]
  rfl

theorem flatMap_receiveEvents_length {answers : List (List Bool)} {bytes : List Byte} (h : SampledAll answers bytes)
    (settle : Nat) : (answers.flatMap (receiveEvents settle)).length = 33 * bytes.length := by
  induction h with
  | nil => rfl
  | cons hbyte _ ih =>
    rw [List.flatMap_cons, List.length_append, receiveEvents_length hbyte, ih, List.length_cons, Nat.mul_succ,
      Nat.add_comm]

/-- Framing entry, command, answers, framing exit (R102). -/
theorem w3ReadEvents_length {answers : List (List Bool)} {bytes : List Byte} (h : SampledAll answers bytes)
    (p : Params) (cmd : Byte) : (w3ReadEvents p cmd answers).length = 3 + 33 + 33 * bytes.length + 2 := by
  simp only [w3ReadEvents, List.length_append, sendEvents_length, flatMap_receiveEvents_length h]
  rfl

/-! ### Where the events leave the lines -/

/-- The data line ends as an output at bit 7, the last bit sent (R91). -/
theorem pins_foldl_send (settle : Nat) (v : Byte) (p : Pins) :
    (sendEvents settle v).foldl Pins.after p = { p with dir := .out, dout := v.getLsbD 7, clk := false } := rfl

/-- Samples and pulses leave the clock low if it was low. -/
theorem pins_foldl_receiveTail (settle : Nat) (bits : List Bool) {p : Pins} (h : p.clk = false) :
    (receiveTail settle bits).foldl Pins.after p = p := by
  induction bits with
  | nil => rfl
  | cons b bits ih =>
    have hpulse : (Event.sample b :: pulseEvents settle).foldl Pins.after p = { p with clk := false } := rfl
    have hp : { p with clk := false } = p := by rw [← h]
    rw [receiveTail, List.flatMap_cons, List.foldl_append, hpulse, hp]
    exact ih

/-- The data line ends as an input and the clock low, since a byte has a first pulse (R93). -/
theorem pins_foldl_receive {bits : List Bool} {v : Byte} (h : SampledAs bits v) (settle : Nat) (p : Pins) :
    (receiveEvents settle bits).foldl Pins.after p = { p with dir := .inp, clk := false } := by
  obtain ⟨hlen, -⟩ := h
  cases bits with
  | nil => exact absurd hlen (by decide)
  | cons b bits => exact pins_foldl_receiveTail settle bits (p := { p with dir := .inp, clk := false }) rfl

/-- A framed write of one byte leaves the byte's bit 7 on the data line and the chip disabled (R101). -/
theorem pins_foldl_w3Write (p : Params) (cmd v : Byte) (q : Pins) :
    (w3WriteEvents p cmd [v]).foldl Pins.after q =
      { clk := false, en := false, dout := v.getLsbD 7, dir := .out } := rfl

/-- A framed read of one byte leaves the data line released, at the command's bit 7, and the chip disabled (R100). -/
theorem pins_foldl_w3Read {bits : List Bool} {v : Byte} (h : SampledAs bits v) (p : Params) (cmd : Byte) (q : Pins) :
    (w3ReadEvents p cmd [bits]).foldl Pins.after q =
      { clk := false, en := false, dout := cmd.getLsbD 7, dir := .inp } := by
  rw [w3ReadEvents, List.flatMap_singleton, List.foldl_append, List.foldl_append, pins_foldl_receive h]
  rfl

/-! ### The enable line inside a frame -/

theorem enableEvents_append (as bs : List Event) : enableEvents (as ++ bs) = enableEvents as ++ enableEvents bs :=
  List.filter_append as bs

theorem enableEvents_flatMap {α : Type} {f : α → List Event} (hf : ∀ x, enableEvents (f x) = []) (l : List α) :
    enableEvents (l.flatMap f) = [] := by
  induction l with
  | nil => rfl
  | cons x l ih => rw [List.flatMap_cons, enableEvents_append, hf, ih, List.nil_append]

theorem enableEvents_send (settle : Nat) (v : Byte) : enableEvents (sendEvents settle v) = [] := rfl

theorem enableEvents_receive (settle : Nat) (bits : List Bool) : enableEvents (receiveEvents settle bits) = [] :=
  enableEvents_flatMap (f := fun b => .sample b :: pulseEvents settle) (fun _ => rfl) bits

/-- The events are framing entry, others that leave the enable line alone, framing exit (R98). -/
def OneFrame (p : Params) (evs : List Event) : Prop :=
  ∃ mid, evs = frameOpen p ++ mid ++ frameClose p ∧ enableEvents mid = []

/-- A command and what follows it, between the two ends of a frame. -/
theorem oneFrame_of_command (p : Params) (cmd : Byte) {data : List Event} (h : enableEvents data = []) :
    OneFrame p (frameOpen p ++ sendEvents p.tSettle cmd ++ data ++ frameClose p) :=
  ⟨sendEvents p.tSettle cmd ++ data, by rw [List.append_assoc (frameOpen p)],
    by rw [enableEvents_append, enableEvents_send, h, List.nil_append]⟩

theorem oneFrame_w3Write (p : Params) (cmd : Byte) (data : List Byte) : OneFrame p (w3WriteEvents p cmd data) :=
  oneFrame_of_command p cmd (enableEvents_flatMap (enableEvents_send p.tSettle) data)

theorem oneFrame_w3Read (p : Params) (cmd : Byte) (answers : List (List Bool)) :
    OneFrame p (w3ReadEvents p cmd answers) :=
  oneFrame_of_command p cmd (enableEvents_flatMap (enableEvents_receive p.tSettle) answers)

/-! ### How each operation ends on 3W -/

/-- An operation that ended with `evs` has lengthened the trace by them. -/
theorem trace_length_of_endedWith {s t : State} {evs : List Event} (h : EndedWith s t evs) :
    t.trace.length = s.trace.length + evs.length := by
  obtain ⟨-, htrace, -⟩ := h
  rw [htrace, List.length_append]

theorem pins_of_endedWith {s t : State} {evs : List Event} (h : EndedWith s t evs) :
    t.pins = evs.foldl Pins.after s.pins := by
  obtain ⟨-, -, hpins, -⟩ := h
  exact hpins

theorem hasSerial_of_eq {v : Chip} (h : v = .w3) : hasSerial v = true := by
  rw [h]
  rfl

/-- A body that is a list of events, whatever it leaves in the working registers. -/
theorem performs_of_eq_emits {u b : State} {evs : List Event} {w : Work} (h : b = (State.emits evs u).setWork w) :
    Performs u b evs := by
  rw [h]
  exact performs_setWork (performs_emits evs u) w

section
variable {s : State}

theorem exec_serWrb_ends (hc : s.cfg.chip = .w3) :
    ∃ t, exec .serWrb s = .next t ∧ EndedWith s t (sendEvents s.cfg.tSettle s.ports.a) :=
  ⟨_, (exec_serWrb s).trans (operate_of_ok (hasSerial_of_eq hc) _ s),
    endedWith_finish (performs_of_eq_emits (sendByte_eq s.ports.a s.accept))⟩

theorem exec_serRdb_ends (hc : s.cfg.chip = .w3) :
    ∃ t bits, exec .serRdb s = .next t ∧ EndedWith s t (receiveEvents s.cfg.tSettle bits) ∧
      SampledAs bits t.res.r := by
  have hread := serialRead_eq s.accept
  have hr : SampledAs (s.env.ahead 8) s.accept.serialRead.1 := by
    rw [hread]
    exact sampledAs_packBits _ (ahead_length _ 8)
  exact ⟨_, _, (exec_serRdb s).trans (operate_of_ok (hasSerial_of_eq hc) _ s),
    endedWith_finish (performs_setR (performs_of_eq_emits (congrArg Prod.snd hread)) _), hr⟩

theorem exec_w3Rd_ends (hc : s.cfg.chip = .w3) :
    ∃ t bits, exec .w3Rd s = .next t ∧ EndedWith s t (w3ReadEvents s.cfg s.ports.a [bits]) ∧
      SampledAs bits t.res.r := by
  have hread := w3Read_eq s.ports.a s.accept
  have hr : SampledAs (s.env.ahead 8) (s.accept.w3Read s.ports.a).1 := by
    rw [hread]
    exact sampledAs_packBits _ (ahead_length _ 8)
  exact ⟨_, _, (exec_w3Rd s).trans (operate_of_ok (hasSerial_of_eq hc) _ s),
    endedWith_finish (performs_setR (performs_of_eq_emits (congrArg Prod.snd hread)) _), hr⟩

theorem exec_w3Wr_ends (hc : s.cfg.chip = .w3) :
    ∃ t, exec .w3Wr s = .next t ∧ EndedWith s t (w3WriteEvents s.cfg s.ports.a [s.ports.b]) :=
  ⟨_, (exec_w3Wr s).trans (operate_of_ok (hasSerial_of_eq hc) _ s),
    endedWith_finish (performs_of_eq_emits (w3Write_eq s.ports.a s.ports.b s.accept))⟩

/-- A burst is accepted on 3W for a length in 1..8 (R75). -/
theorem serialBurst_ok (hc : s.cfg.chip = .w3) (h1 : 1 ≤ s.ports.n.toNat) (h8 : s.ports.n.toNat ≤ 8) :
    (hasSerial s.cfg.chip && burstLengthOk s.ports.n.toNat) = true := by
  rw [hasSerial_of_eq hc, burstLengthOk_iff.2 ⟨h1, h8⟩]
  rfl

theorem exec_w3Brd_ends (hc : s.cfg.chip = .w3) (h1 : 1 ≤ s.ports.n.toNat) (h8 : s.ports.n.toNat ≤ 8) :
    ∃ t answers, exec .w3Brd s = .next t ∧ EndedWith s t (w3ReadEvents s.cfg s.ports.a answers) ∧
      SampledAll answers (t.res.rbuf.first s.ports.n.toNat) := by
  obtain ⟨answers, bytes, w, hall, hlen, hread⟩ := w3BurstRead_eq s.ports.a s.ports.n.toNat s.accept
  have hrbuf : (Buf.ofList (s.accept.w3BurstRead s.ports.a s.ports.n.toNat).1).first s.ports.n.toNat = bytes := by
    rw [hread, ← hlen]
    exact first_ofList (hlen.trans_le h8)
  exact ⟨_, answers, (exec_w3Brd s).trans (operate_of_ok (serialBurst_ok hc h1 h8) _ s),
    endedWith_finish (performs_setRbuf (performs_of_eq_emits (congrArg Prod.snd hread)) _), hrbuf.symm ▸ hall⟩

theorem exec_w3Bwr_ends (hc : s.cfg.chip = .w3) (h1 : 1 ≤ s.ports.n.toNat) (h8 : s.ports.n.toNat ≤ 8) :
    ∃ t, exec .w3Bwr s = .next t ∧
      EndedWith s t (w3WriteEvents s.cfg s.ports.a (s.ports.buf.first s.ports.n.toNat)) := by
  obtain ⟨w, hwrite⟩ := w3BurstWrite_eq s.ports.a (s.ports.buf.first s.ports.n.toNat) s.accept
  exact ⟨_, (exec_w3Bwr s).trans (operate_of_ok (serialBurst_ok hc h1 h8) _ s),
    endedWith_finish (performs_of_eq_emits hwrite)⟩

end

/-! ### The statements -/

/-- Settles O25: the lines are where the byte's events leave them. -/
theorem serialWriteSendsTheByte : Obligations.SerialWriteSendsTheByte := by
  intro s hc
  obtain ⟨t, he, hend⟩ := exec_serWrb_ends hc
  have hpins := (pins_of_endedWith hend).trans (pins_foldl_send ..)
  refine ⟨t, he, hend, trace_length_of_endedWith hend, ?_⟩
  rw [hpins]
  exact ⟨rfl, rfl, rfl, rfl⟩

/-- Settles O26: the samples are those the device has ahead, and their events do not touch `DOUT` and `EN`. -/
theorem serialReadSamplesTheByte : Obligations.SerialReadSamplesTheByte := by
  intro s hc
  obtain ⟨t, bits, he, hend, hr⟩ := exec_serRdb_ends hc
  have hlen := trace_length_of_endedWith hend
  rw [receiveEvents_length hr] at hlen
  refine ⟨t, bits, he, hend, hr, hlen, ?_⟩
  rw [pins_of_endedWith hend, pins_foldl_receive hr]
  exact ⟨rfl, rfl, rfl, rfl⟩

/-- Settles O27: each body is its events, whatever the lines were before. -/
theorem framingEntryAndExit : Obligations.FramingEntryAndExit := by
  intro s hc
  have hok := hasSerial_of_eq hc
  refine ⟨⟨_, (exec_txnBegin s).trans (operate_of_ok hok _ s), ?_, rfl⟩,
    ⟨_, (exec_txnEnd s).trans (operate_of_ok hok _ s), ?_, rfl⟩⟩
  · exact endedWith_finish (txnBegin_eq s.accept ▸ performs_emits (frameOpen s.cfg) s.accept)
  · exact endedWith_finish (txnEnd_eq s.accept ▸ performs_emits (frameClose s.cfg) s.accept)

/-- Settles O28: one answer of eight samples, and the frame closed behind it. -/
theorem threeWireReadIsOneFrame : Obligations.ThreeWireReadIsOneFrame := by
  intro s hc
  obtain ⟨t, bits, he, hend, hr⟩ := exec_w3Rd_ends hc
  have hlen := trace_length_of_endedWith hend
  rw [w3ReadEvents_length (.cons hr .nil)] at hlen
  refine ⟨t, bits, he, hend, hr, hlen, ?_⟩
  rw [pins_of_endedWith hend, pins_foldl_w3Read hr]
  exact ⟨rfl, rfl, rfl⟩

/-- Settles O29: one data byte behind the command, and the frame closed behind it. -/
theorem threeWireWriteIsOneFrame : Obligations.ThreeWireWriteIsOneFrame := by
  intro s hc
  obtain ⟨t, he, hend⟩ := exec_w3Wr_ends hc
  have hlen := trace_length_of_endedWith hend
  rw [w3WriteEvents_length] at hlen
  refine ⟨t, he, hend, hlen, ?_⟩
  rw [pins_of_endedWith hend, pins_foldl_w3Write]
  exact ⟨rfl, rfl, rfl, rfl⟩

/-- Settles O30: as many answers as `n` asks for, each of 33 events. -/
theorem threeWireBurstReadIsOneFrame : Obligations.ThreeWireBurstReadIsOneFrame := by
  intro s hc h1 h8
  obtain ⟨t, answers, he, hend, hall⟩ := exec_w3Brd_ends hc h1 h8
  have hlen := trace_length_of_endedWith hend
  rw [w3ReadEvents_length hall, first_length _ h8] at hlen
  exact ⟨t, answers, he, hend, hall, hlen⟩

/-- Settles O31: the first `n` bytes of `buf`, each of 33 events. -/
theorem threeWireBurstWriteIsOneFrame : Obligations.ThreeWireBurstWriteIsOneFrame := by
  intro s hc h1 h8
  obtain ⟨t, he, hend⟩ := exec_w3Bwr_ends hc h1 h8
  have hlen := trace_length_of_endedWith hend
  rw [w3WriteEvents_length, first_length _ h8] at hlen
  exact ⟨t, he, hend, hlen⟩

/-- Settles O32: each of the four ends with the events of a framed read or write, and these are one frame. -/
theorem enableRisesAndFallsOncePerTransaction : Obligations.EnableRisesAndFallsOncePerTransaction := by
  intro s i hc hi hn
  have hframed : ∃ t evs, exec i s = .next t ∧ EndedWith s t evs ∧ OneFrame s.cfg evs := by
    simp only [List.mem_cons, List.not_mem_nil, or_false] at hi
    obtain rfl | rfl | rfl | rfl := hi
    · obtain ⟨t, bits, he, hend, -⟩ := exec_w3Rd_ends hc
      exact ⟨t, _, he, hend, oneFrame_w3Read ..⟩
    · obtain ⟨t, he, hend⟩ := exec_w3Wr_ends hc
      exact ⟨t, _, he, hend, oneFrame_w3Write ..⟩
    · obtain ⟨h1, h8⟩ := hn (by decide)
      obtain ⟨t, answers, he, hend, -⟩ := exec_w3Brd_ends hc h1 h8
      exact ⟨t, _, he, hend, oneFrame_w3Read ..⟩
    · obtain ⟨h1, h8⟩ := hn (by decide)
      obtain ⟨t, he, hend⟩ := exec_w3Bwr_ends hc h1 h8
      exact ⟨t, _, he, hend, oneFrame_w3Write ..⟩
  obtain ⟨t, evs, he, hend, mid, rfl, hmid⟩ := hframed
  exact ⟨t, mid, he, hend, hmid⟩

end Sys2Proof.Machine
end

section
/-! PROOF. The I2C family (R110 to R116): the statuses to come change no result but the probe's, and each operation ends
with the events of its transmissions. -/

namespace Sys2Proof.Machine

open Sys2Proof

/-! ### States that differ in the statuses to come (R110) -/

/-- `u` with other statuses to come, and with another trace, where other ENDs may stand. -/
def State.reanswered (tr : List Event) (sts : List Nat) (u : State) : State :=
  { u with trace := tr, env := { u.env with statuses := sts } }

/-- The two states differ at most in the statuses to come and in the trace. -/
def Alike (u v : State) : Prop := ∃ tr sts, v = u.reanswered tr sts

/-- The same for two steps with a result, which is one and the same. -/
structure AlikeRead {α : Type} (x y : α × State) : Prop where
  val : y.1 = x.1
  state : Alike x.2 y.2

/-- `body` makes no more of the statuses to come than ENDs in the trace. -/
def StatusBlind (body : State → State) : Prop := ∀ u tr sts, Alike (body u) (body (u.reanswered tr sts))

/-- The same for a step with a result. -/
def StatusBlindRead {α : Type} (f : State → α × State) : Prop :=
  ∀ u tr sts, AlikeRead (f u) (f (u.reanswered tr sts))

section
variable {u v : State}

/-- A blind step keeps two states alike. Its uses stand in `( :)`, so that `body` is read off `hb` and not off the goal. -/
theorem alike_map {body : State → State} (hb : StatusBlind body) (h : Alike u v) : Alike (body u) (body v) := by
  obtain ⟨tr, sts, rfl⟩ := h
  exact hb u tr sts

theorem alike_trans {w : State} (h : Alike u v) (k : Alike v w) : Alike u w := by
  obtain ⟨tr, sts, rfl⟩ := h
  obtain ⟨tr', sts', rfl⟩ := k
  exact ⟨tr', sts', rfl⟩

theorem alikeRead_map {α : Type} {f : State → α × State} (hf : StatusBlindRead f) (h : Alike u v) :
    AlikeRead (f u) (f v) := by
  obtain ⟨tr, sts, rfl⟩ := h
  exact hf u tr sts

end

/-- An update that looks at neither the trace nor the environment. -/
theorem statusBlind_of_comm {body : State → State}
    (h : ∀ u tr sts, body (u.reanswered tr sts) = (body u).reanswered tr sts) : StatusBlind body :=
  fun u tr sts => ⟨tr, sts, h u tr sts⟩

theorem statusBlind_setR (x : Byte) : StatusBlind (State.setR x) := statusBlind_of_comm fun _ _ _ => rfl

theorem statusBlind_setRbuf (q : Buf) : StatusBlind (State.setRbuf q) := statusBlind_of_comm fun _ _ _ => rfl

theorem statusBlind_decodeTime (w : Chip) (q : Buf) : StatusBlind (State.decodeTime w q) :=
  statusBlind_of_comm fun _ _ _ => rfl

theorem statusBlind_setWork (w : Work) : StatusBlind (State.setWork w) := statusBlind_of_comm fun _ _ _ => rfl

theorem statusBlind_setWrNeeded (x : Bool) :
    StatusBlind fun u => u.setStatus { u.status with wrNeeded := x } := statusBlind_of_comm fun _ _ _ => rfl

/-! ### Primitive steps -/

/-- An event uses up a status at most: what it leaves otherwise does not depend on the statuses (R31). -/
theorem env_after_statuses (e : Env) (sts : List Nat) (ev : Event) :
    ∃ sts', { e with statuses := sts }.after ev = { e.after ev with statuses := sts' } := by
  cases ev with
  | clk | en | dout | dir | sample | delay | i2cRequest => exact ⟨sts, rfl⟩
  | i2cEnd | i2cRead | i2cBegin =>
    cases hm : e.mode <;> simp [Env.after, hm]
  | i2cWrite b =>
    cases hm : e.mode <;> cases hf : e.fresh <;> simp [Env.after, Env.afterWrite, hm, hf]

theorem statusBlind_emit (ev : Event) : StatusBlind (State.emit ev) := by
  intro u tr sts
  obtain ⟨sts', h⟩ := env_after_statuses u.env sts ev
  refine ⟨tr ++ [ev], sts', ?_⟩
  simp only [State.emit, State.reanswered, h]

/-- Whatever status an END returns, it leaves the lines and the device alike (R17). -/
theorem alike_emit_i2cEnd (u : State) (st st' : Nat) : Alike (u.emit (.i2cEnd st)) (u.emit (.i2cEnd st')) :=
  ⟨u.trace ++ [.i2cEnd st'], (u.emit (.i2cEnd st)).env.statuses, rfl⟩

/-- A status that the caller discards shows in the trace alone (R110). -/
theorem statusBlind_i2cEnd : StatusBlind fun u => u.i2cEnd.2 := fun u tr sts =>
  alike_trans (statusBlind_emit (.i2cEnd u.env.nextStatus) u tr sts) (alike_emit_i2cEnd (u.reanswered tr sts) _ _)

theorem statusBlind_emits (evs : List Event) : StatusBlind (State.emits evs) := by
  induction evs with
  | nil => exact fun _ tr sts => ⟨tr, sts, rfl⟩
  | cons ev evs ih => exact fun u tr sts => (alike_map ih (statusBlind_emit ev u tr sts) :)

/-- A reading step taken several times. -/
theorem statusBlindRead_readMany {f : State → Byte × State} (hf : StatusBlindRead f) (n : Nat) :
    StatusBlindRead (State.readMany f n) := by
  induction n with
  | zero => exact fun _ tr sts => ⟨rfl, tr, sts, rfl⟩
  | succ n ih =>
    intro u tr sts
    have hfirst := hf u tr sts
    have hrest := alikeRead_map ih hfirst.state
    exact ⟨congrArg₂ List.cons hfirst.val hrest.val, hrest.state⟩

/-! ### The 3-wire transport -/

theorem statusBlind_txnBegin : StatusBlind State.txnBegin := fun u => statusBlind_emits (frameOpen u.cfg) u

theorem statusBlind_txnEnd : StatusBlind State.txnEnd := fun u => statusBlind_emits (frameClose u.cfg) u

theorem statusBlind_sendByte (v : Byte) : StatusBlind (State.sendByte v) := by
  intro u tr sts
  rw [sendByte_eq, sendByte_eq]
  exact alike_map (statusBlind_setWork _) (statusBlind_emits _ u tr sts)

theorem ahead_statuses (e : Env) (sts : List Nat) (n : Nat) : { e with statuses := sts }.ahead n = e.ahead n := by
  induction n generalizing e with
  | zero => rfl
  | succ n ih => exact congrArg (e.nextLevel :: ·) (ih (e.after (.sample e.nextLevel)))

theorem ahead_reanswered (tr : List Event) (sts : List Nat) (u : State) (n : Nat) :
    (u.reanswered tr sts).env.ahead n = u.env.ahead n := ahead_statuses u.env sts n

theorem statusBlindRead_serialRead : StatusBlindRead State.serialRead := by
  intro u tr sts
  rw [serialRead_eq, serialRead_eq, ahead_reanswered]
  exact ⟨rfl, alike_map (statusBlind_setWork _) (statusBlind_emits _ u tr sts)⟩

theorem statusBlind_sendBytes (vs : List Byte) : StatusBlind (State.sendBytes vs) := by
  induction vs with
  | nil => exact fun _ tr sts => ⟨tr, sts, rfl⟩
  | cons v vs ih => exact fun u tr sts => (alike_map ih (statusBlind_sendByte v u tr sts) :)

/-- Framing entry and the command (R96). -/
theorem statusBlind_command (cmd : Byte) : StatusBlind fun u => u.txnBegin.sendByte cmd := fun u tr sts =>
  (alike_map (statusBlind_sendByte cmd) (statusBlind_txnBegin u tr sts) :)

theorem statusBlindRead_w3Read (code : Byte) : StatusBlindRead (State.w3Read code) := by
  intro u tr sts
  rw [w3Read_eq, w3Read_eq, ahead_reanswered]
  exact ⟨rfl, alike_map (statusBlind_setWork _) (statusBlind_emits _ u tr sts)⟩

theorem statusBlind_w3Write (code v : Byte) : StatusBlind (State.w3Write code v) := fun u tr sts =>
  (alike_map statusBlind_txnEnd (alike_map (statusBlind_sendByte v) (statusBlind_command code u tr sts)) :)

theorem statusBlindRead_w3BurstRead (cmd : Byte) (n : Nat) : StatusBlindRead (State.w3BurstRead cmd n) :=
  fun u tr sts =>
  have h := alikeRead_map (statusBlindRead_readMany statusBlindRead_serialRead n) (statusBlind_command cmd u tr sts)
  ⟨h.val, alike_map statusBlind_txnEnd h.state⟩

theorem statusBlind_w3BurstWrite (cmd : Byte) (vs : List Byte) : StatusBlind (State.w3BurstWrite cmd vs) :=
  fun u tr sts =>
  (alike_map statusBlind_txnEnd (alike_map (statusBlind_sendBytes vs) (statusBlind_command cmd u tr sts)) :)

/-! ### The I2C transport -/

theorem statusBlindRead_i2cReadByte : StatusBlindRead State.i2cReadByte := fun u tr sts =>
  ⟨rfl, statusBlind_emit (.i2cRead u.env.nextByte) u tr sts⟩

/-- A transmission opened with the register address and bytes behind it (R56). -/
theorem statusBlind_opened (a : Byte) (vs : List Byte) :
    StatusBlind fun u => State.i2cWriteBytes vs ((u.emit (.i2cBegin u.cfg.devAddr)).emit (.i2cWrite a)) := by
  intro u tr sts
  simp only [i2cWriteBytes_eq]
  exact statusBlind_emits (.i2cBegin u.cfg.devAddr :: .i2cWrite a :: vs.map .i2cWrite) u tr sts

theorem statusBlind_i2cBurstWrite (a : Byte) (vs : List Byte) : StatusBlind (State.i2cBurstWrite a vs) :=
  fun u tr sts => (alike_map statusBlind_i2cEnd (statusBlind_opened a vs u tr sts) :)

theorem statusBlind_i2cWrite (a v : Byte) : StatusBlind (State.i2cWrite a v) := statusBlind_i2cBurstWrite a [v]

theorem statusBlind_i2cAddress (a : Byte) : StatusBlind (State.i2cAddress a) := statusBlind_i2cBurstWrite a []

theorem statusBlindRead_i2cBurstRead (a : Byte) (n : Nat) : StatusBlindRead (State.i2cBurstRead a n) :=
  fun u tr sts =>
  (alikeRead_map (statusBlindRead_readMany statusBlindRead_i2cReadByte n)
    (alike_map (statusBlind_emit (.i2cRequest u.cfg.devAddr n)) (statusBlind_i2cAddress a u tr sts)) :)

theorem statusBlindRead_i2cRead (a : Byte) : StatusBlindRead (State.i2cRead a) := fun u tr sts =>
  (alikeRead_map statusBlindRead_i2cReadByte
    (alike_map (statusBlind_emit (.i2cRequest u.cfg.devAddr 1)) (statusBlind_i2cAddress a u tr sts)) :)

/-! ### The dispatching access (R33) -/

theorem reanswered_cfg (tr : List Event) (sts : List Nat) (u : State) : (u.reanswered tr sts).cfg = u.cfg := rfl

theorem statusBlindRead_memRead (a : Byte) : StatusBlindRead (State.memRead a) := by
  intro u tr sts
  cases hc : u.cfg.chip with
  | w3 => simpa only [State.memRead, reanswered_cfg, hc] using statusBlindRead_w3Read (readCode a) u tr sts
  | a | b | c | d => simpa only [State.memRead, reanswered_cfg, hc] using statusBlindRead_i2cRead a u tr sts

theorem statusBlind_memWrite (a v : Byte) : StatusBlind (State.memWrite a v) := by
  intro u tr sts
  cases hc : u.cfg.chip with
  | w3 => simpa only [State.memWrite, reanswered_cfg, hc] using statusBlind_w3Write a v u tr sts
  | a | b | c | d => simpa only [State.memWrite, reanswered_cfg, hc] using statusBlind_i2cWrite a v u tr sts

theorem statusBlindRead_timeBurstRead : StatusBlindRead State.timeBurstRead := by
  intro u tr sts
  cases hc : u.cfg.chip with
  | w3 =>
    simpa only [State.timeBurstRead, reanswered_cfg, hc] using
      statusBlindRead_w3BurstRead u.cfg.burstRd u.cfg.burstRdLen u tr sts
  | a | b | c | d =>
    simpa only [State.timeBurstRead, reanswered_cfg, hc] using statusBlindRead_i2cBurstRead u.cfg.timeBase 7 u tr sts

theorem statusBlind_timeBurstWrite (q : Buf) : StatusBlind (State.timeBurstWrite q) := by
  intro u tr sts
  cases hc : u.cfg.chip with
  | w3 =>
    simpa only [State.timeBurstWrite, reanswered_cfg, hc] using
      statusBlind_w3BurstWrite u.cfg.burstWr (q.first 8) u tr sts
  | a | b | c | d =>
    simpa only [State.timeBurstWrite, reanswered_cfg, hc] using
      statusBlind_i2cBurstWrite u.cfg.timeBase (q.first 7) u tr sts

theorem statusBlindRead_flagGet (reg mask : Byte) : StatusBlindRead (State.flagGet reg mask) := fun u tr sts =>
  have hread := statusBlindRead_memRead reg u tr sts
  ⟨congrArg (anyBitSet · mask) hread.val, hread.state⟩

/-- The flag set reads the same byte, and so decides alike whether to write (R181). -/
theorem statusBlind_flagSet (reg mask : Byte) (want : Bool) : StatusBlind (State.flagSet reg mask want) := by
  intro u tr sts
  have hread := statusBlindRead_memRead reg u tr sts
  simp only [State.flagSet, hread.val]
  cases flagDiffers (u.memRead reg).1 mask want with
  | true =>
    exact (alike_map (statusBlind_setWrNeeded true) (alike_map (statusBlind_memWrite reg _) hread.state) :)
  | false => exact (alike_map (statusBlind_setWrNeeded false) hread.state :)

/-! ### Every operation but the probe -/

/-- A result that a step reads, presented on `r`. -/
theorem statusBlind_thenSetR {α : Type} {f : State → α × State} (r : Params → α → Byte) (hf : StatusBlindRead f) :
    StatusBlind fun u => (f u).2.setR (r u.cfg (f u).1) := by
  intro u tr sts
  have hread := hf u tr sts
  simp only [hread.val]
  exact alike_map (statusBlind_setR _) hread.state

/-- Bytes that a step reads, presented on `rbuf`. -/
theorem statusBlind_thenSetRbuf {f : State → List Byte × State} (hf : StatusBlindRead f) :
    StatusBlind fun u => (f u).2.setRbuf (Buf.ofList (f u).1) := by
  intro u tr sts
  have hread := hf u tr sts
  simp only [hread.val]
  exact alike_map (statusBlind_setRbuf _) hread.state

theorem statusBlind_timeGet :
    StatusBlind fun u => (u.timeBurstRead.2.setRbuf (Buf.ofList u.timeBurstRead.1)).decodeTime u.cfg.chip
      (Buf.ofList u.timeBurstRead.1) := by
  intro u tr sts
  have hread := statusBlindRead_timeBurstRead u tr sts
  simp only [hread.val]
  exact alike_map (statusBlind_decodeTime u.cfg.chip _) (alike_map (statusBlind_setRbuf _) hread.state)

/-- A choice between two blind bodies that the statuses do not decide. -/
theorem statusBlind_ite {c : State → Bool} {f g : State → State} (hc : ∀ u tr sts, c (u.reanswered tr sts) = c u)
    (hf : StatusBlind f) (hg : StatusBlind g) : StatusBlind fun u => if c u then f u else g u := by
  intro u tr sts
  simp only [hc]
  cases c u with
  | true => exact hf u tr sts
  | false => exact hg u tr sts

/-- The statuses to come change no result of the operation, no status bit, and not how far the free weekdays move on. -/
def ResultsBlind (i : Instr) : Prop :=
  ∀ (s : State) (sts : List Nat), ∃ t u, exec i s = .next t ∧ exec i (s.reanswered s.trace sts) = .next u ∧
    u.res = t.res ∧ u.status = t.status ∧ u.draws = t.draws

/-- An operation with a blind body, accepted or refused for reasons other than the statuses. -/
theorem resultsBlind_of_statusBlind {i : Instr} {ok : State → Bool} {body : State → State}
    (he : ∀ s, exec i s = s.operate (ok s) body) (hb : StatusBlind body)
    (hok : ∀ s sts, ok (s.reanswered s.trace sts) = ok s := by intros; rfl) : ResultsBlind i := by
  intro s sts
  rw [he, he, hok]
  cases ok s with
  | false => exact ⟨_, _, rfl, rfl, rfl, rfl, rfl⟩
  | true =>
    obtain ⟨tr', sts', h⟩ := hb s.accept s.trace sts
    refine ⟨(body s.accept).finish, ((body s.accept).reanswered tr' sts').finish, rfl, ?_, rfl, rfl, rfl⟩
    rw [operate_true, ← h]
    rfl

/-- The pure operations name the statuses nowhere; the others are made of blind steps, and the probe alone looks at the
status of its END. -/
theorem resultsBlind {i : Instr} (hi : i ≠ .i2cProbe) : ResultsBlind i := by
  cases i with
  | i2cProbe => exact absurd rfl hi
  | bcdDec | bcdEnc | timeDec3W | timeDecA | timeDecB | timeDecC | timeDecD | timeEnc3W | timeEncA | timeEncB | timeEncC
  | timeEncD | alm4Dec | alm4Enc | alm3Dec | alm3Enc | almdDec | almdEnc | tcsDec | flagEval | ageDec | tempDec =>
    exact fun _ _ => ⟨_, _, rfl, rfl, rfl, rfl, rfl⟩
  | serWrb => exact resultsBlind_of_statusBlind exec_serWrb fun u => statusBlind_sendByte u.ports.a u
  | serRdb =>
    exact resultsBlind_of_statusBlind exec_serRdb (statusBlind_thenSetR (fun _ v => v) statusBlindRead_serialRead)
  | txnBegin => exact resultsBlind_of_statusBlind exec_txnBegin statusBlind_txnBegin
  | txnEnd => exact resultsBlind_of_statusBlind exec_txnEnd statusBlind_txnEnd
  | w3Rd =>
    exact resultsBlind_of_statusBlind exec_w3Rd
      (statusBlind_thenSetR (fun _ v => v) fun u => statusBlindRead_w3Read u.ports.a u)
  | w3Wr => exact resultsBlind_of_statusBlind exec_w3Wr fun u => statusBlind_w3Write u.ports.a u.ports.b u
  | w3Brd =>
    exact resultsBlind_of_statusBlind exec_w3Brd
      (statusBlind_thenSetRbuf fun u => statusBlindRead_w3BurstRead u.ports.a u.ports.n.toNat u)
  | w3Bwr =>
    exact resultsBlind_of_statusBlind exec_w3Bwr
      fun u => statusBlind_w3BurstWrite u.ports.a (u.ports.buf.first u.ports.n.toNat) u
  | i2cRd =>
    exact resultsBlind_of_statusBlind exec_i2cRd
      (statusBlind_thenSetR (fun _ v => v) fun u => statusBlindRead_i2cRead u.ports.a u)
  | i2cWr => exact resultsBlind_of_statusBlind exec_i2cWr fun u => statusBlind_i2cWrite u.ports.a u.ports.b u
  | i2cBrd =>
    exact resultsBlind_of_statusBlind exec_i2cBrd
      (statusBlind_thenSetRbuf fun u => statusBlindRead_i2cBurstRead u.ports.a u.ports.n.toNat u)
  | i2cBwr =>
    exact resultsBlind_of_statusBlind exec_i2cBwr
      fun u => statusBlind_i2cBurstWrite u.ports.a (u.ports.buf.first u.ports.n.toNat) u
  | timeGet => exact resultsBlind_of_statusBlind exec_timeGet statusBlind_timeGet
  | timeSet =>
    exact resultsBlind_of_statusBlind exec_timeSet fun u tr sts =>
      alike_map (statusBlind_timeBurstWrite _) (statusBlind_setRbuf (timeEncode u.cfg.chip u.cfg u.ports.t) u tr sts)
  | flagSet =>
    exact resultsBlind_of_statusBlind exec_flagSet
      fun u => statusBlind_flagSet u.ports.a u.ports.b u.ports.c u
  | flagGet =>
    exact resultsBlind_of_statusBlind exec_flagGet
      (statusBlind_thenSetR (fun _ f => bitByte f) fun u => statusBlindRead_flagGet u.ports.a u.ports.b u)
  | ramRd =>
    exact resultsBlind_of_statusBlind exec_ramRd
      (statusBlind_ite (fun _ _ _ => rfl) (statusBlind_of_comm fun _ _ _ => rfl)
        (statusBlind_thenSetR (fun _ v => v) fun u => statusBlindRead_memRead (ramAddr u.cfg u.ports.a) u))
  | ramWr =>
    exact resultsBlind_of_statusBlind exec_ramWr
      (statusBlind_ite (fun _ _ _ => rfl) (statusBlind_of_comm fun _ _ _ => rfl)
        fun u => statusBlind_memWrite (ramAddr u.cfg u.ports.a) u.ports.b u)
  | regRd =>
    exact resultsBlind_of_statusBlind exec_regRd
      (statusBlind_thenSetR (fun _ v => v) fun u => statusBlindRead_memRead u.ports.a u)
  | regWr => exact resultsBlind_of_statusBlind exec_regWr fun u => statusBlind_memWrite u.ports.a u.ports.b u
  | runGet =>
    exact resultsBlind_of_statusBlind exec_runGet
      (statusBlind_thenSetR (fun p f => bitByte (bitByte f != p.runStopValue))
        fun u => statusBlindRead_flagGet u.cfg.runReg u.cfg.runMask u)
  | runSet =>
    exact resultsBlind_of_statusBlind exec_runSet
      fun u => statusBlind_flagSet u.cfg.runReg u.cfg.runMask (runWanted u.cfg u.ports.c) u

/-- Settles O21: the second state is the first one reanswered, with the same trace. -/
theorem acknowledgmentSeenByTheProbeOnly : Obligations.AcknowledgmentSeenByTheProbeOnly :=
  fun _ s sts hi => resultsBlind hi s sts

/-! ### How each operation ends on A to D -/

/-- The register read: one byte, which is its result (R111). -/
theorem performs_i2cRead (a : Byte) (u : State) :
    ∃ st, Performs u (u.i2cRead a).2 (i2cReadEvents u.cfg a st [(u.i2cRead a).1]) := by
  obtain ⟨st, v, h⟩ := i2cRead_eq a u
  rw [h]
  exact ⟨st, performs_emits _ u⟩

/-- The burst read: as many bytes as asked for, which are its result (R113). -/
theorem performs_i2cBurstRead (a : Byte) (n : Nat) (u : State) :
    (u.i2cBurstRead a n).1.length = n ∧
      ∃ st, Performs u (u.i2cBurstRead a n).2 (i2cReadEvents u.cfg a st (u.i2cBurstRead a n).1) := by
  obtain ⟨st, bytes, hlen, h⟩ := i2cBurstRead_eq a n u
  rw [h]
  exact ⟨hlen, st, performs_emits _ u⟩

theorem performs_i2cWrite (a v : Byte) (u : State) :
    ∃ st, Performs u (u.i2cWrite a v) (i2cWriteEvents u.cfg a [v] st) := by
  obtain ⟨st, h⟩ := i2cWrite_eq a v u
  rw [h]
  exact ⟨st, performs_emits _ u⟩

theorem performs_i2cBurstWrite (a : Byte) (vs : List Byte) (u : State) :
    ∃ st, Performs u (u.i2cBurstWrite a vs) (i2cWriteEvents u.cfg a vs st) := by
  obtain ⟨st, h⟩ := i2cBurstWrite_eq a vs u
  rw [h]
  exact ⟨st, performs_emits _ u⟩

section
variable {s : State}

theorem exec_i2cRd_ends (hc : s.cfg.chip ≠ .w3) :
    ∃ t st, exec .i2cRd s = .next t ∧ EndedWith s t (i2cReadEvents s.cfg s.ports.a st [t.res.r]) := by
  obtain ⟨st, h⟩ := performs_i2cRead s.ports.a s.accept
  exact ⟨_, st, (exec_i2cRd s).trans (operate_of_ok (hasI2c_of_ne hc) _ s), endedWith_finish (performs_setR h _)⟩

theorem exec_i2cWr_ends (hc : s.cfg.chip ≠ .w3) :
    ∃ t st, exec .i2cWr s = .next t ∧ EndedWith s t (i2cWriteEvents s.cfg s.ports.a [s.ports.b] st) := by
  obtain ⟨st, h⟩ := performs_i2cWrite s.ports.a s.ports.b s.accept
  exact ⟨_, st, (exec_i2cWr s).trans (operate_of_ok (hasI2c_of_ne hc) _ s), endedWith_finish h⟩

/-- A burst is accepted on A to D for a length in 1..8 (R75). -/
theorem i2cBurst_ok (hc : s.cfg.chip ≠ .w3) (h1 : 1 ≤ s.ports.n.toNat) (h8 : s.ports.n.toNat ≤ 8) :
    (hasI2c s.cfg.chip && burstLengthOk s.ports.n.toNat) = true := by
  rw [hasI2c_of_ne hc, burstLengthOk_iff.2 ⟨h1, h8⟩]
  rfl

theorem exec_i2cBrd_ends (hc : s.cfg.chip ≠ .w3) (h1 : 1 ≤ s.ports.n.toNat) (h8 : s.ports.n.toNat ≤ 8) :
    ∃ t st, exec .i2cBrd s = .next t ∧
      EndedWith s t (i2cReadEvents s.cfg s.ports.a st (t.res.rbuf.first s.ports.n.toNat)) := by
  obtain ⟨hlen, st, h⟩ := performs_i2cBurstRead s.ports.a s.ports.n.toNat s.accept
  have hrbuf := first_ofList (hlen.trans_le h8)
  rw [hlen] at hrbuf
  refine ⟨_, st, (exec_i2cBrd s).trans (operate_of_ok (i2cBurst_ok hc h1 h8) _ s),
    endedWith_finish (performs_setRbuf ?_ _)⟩
  rw [← hrbuf] at h
  exact h

theorem exec_i2cBwr_ends (hc : s.cfg.chip ≠ .w3) (h1 : 1 ≤ s.ports.n.toNat) (h8 : s.ports.n.toNat ≤ 8) :
    ∃ t st, exec .i2cBwr s = .next t ∧
      EndedWith s t (i2cWriteEvents s.cfg s.ports.a (s.ports.buf.first s.ports.n.toNat) st) := by
  obtain ⟨st, h⟩ := performs_i2cBurstWrite s.ports.a (s.ports.buf.first s.ports.n.toNat) s.accept
  exact ⟨_, st, (exec_i2cBwr s).trans (operate_of_ok (i2cBurst_ok hc h1 h8) _ s), endedWith_finish h⟩

end

/-- Settles O33: one transmission each, the read with a request of one byte behind it. -/
theorem i2cRegisterReadAndWrite : Obligations.I2cRegisterReadAndWrite := fun _ hc =>
  ⟨exec_i2cRd_ends hc, exec_i2cWr_ends hc⟩

/-- Settles O34: `rbuf` holds as many bytes as were requested. -/
theorem i2cBurstReadIsOneTransmission : Obligations.I2cBurstReadIsOneTransmission := by
  intro s hc h1 h8
  obtain ⟨t, st, he, hend⟩ := exec_i2cBrd_ends hc h1 h8
  rw [i2cReadEvents, first_length _ h8] at hend
  exact ⟨t, st, he, hend⟩

/-- Settles O35: the address and the first `n` bytes of `buf` in one transmission. -/
theorem i2cBurstWriteIsOneTransmission : Obligations.I2cBurstWriteIsOneTransmission := fun _ hc h1 h8 =>
  exec_i2cBwr_ends hc h1 h8

/-! ### The probe (R115, R116) -/

/-- The status that the probe's empty transmission ends with. -/
def State.probeStatus (u : State) : Nat := (u.emit (.i2cBegin u.cfg.devAddr)).env.nextStatus

theorem performs_probed (u : State) :
    Performs u u.probed [.i2cBegin u.cfg.devAddr, .i2cEnd u.probeStatus] :=
  performs_setStatus (performs_emits [.i2cBegin u.cfg.devAddr, .i2cEnd u.probeStatus] u) _

theorem probed_present_iff (u : State) : u.probed.status.present = true ↔ u.probeStatus = 0 :=
  beq_iff_eq

/-- Whether the voltage-low check follows: a device is present, and the chip is C or D. -/
theorem probe_checks_iff (u : State) (v : Chip) :
    (u.probed.status.present && checksVoltage v) = true ↔ u.probeStatus = 0 ∧ (v = .c ∨ v = .d) := by
  rw [Bool.and_eq_true_iff, probed_present_iff, checksVoltage_iff]

theorem anyBitSet_iff (v mask : Byte) : anyBitSet v mask = true ↔ v &&& mask ≠ 0x00#8 := bne_iff_ne

/-- Settles O36: without a check the probe ends with its empty transmission, else the check's events follow. -/
theorem probeReportsPresence : Obligations.ProbeReportsPresence := by
  intro s hc
  have hok := hasI2c_of_ne hc
  have hprobed := performs_probed s.accept
  cases hx : s.accept.probed.status.present && checksVoltage s.cfg.chip with
  | false =>
    have hno : ¬ (s.accept.probeStatus = 0 ∧ (s.cfg.chip = .c ∨ s.cfg.chip = .d)) := fun h =>
      Bool.eq_false_iff.1 hx ((probe_checks_iff s.accept _).2 h)
    refine ⟨_, s.accept.probeStatus, [], exec_i2cProbe_of_no_check s hok hx, ?_, probed_present_iff s.accept,
      fun _ => rfl, fun _ => ⟨rfl, rfl, rfl, rfl⟩, fun h0 hcd => absurd ⟨h0, hcd⟩ hno⟩
    exact endedWith_finish hprobed
  | true =>
    obtain ⟨h0, hcd⟩ := (probe_checks_iff s.accept _).1 hx
    obtain ⟨st', v, writes, ht, -, hlow, hgood⟩ := transports_voltageLowCheck s.accept.probed hc
    refine ⟨_, s.accept.probeStatus, _, exec_i2cProbe_of_check s hok hx,
      endedWith_finish (performs_setR (performs_trans hprobed ht.toPerforms) _), ?_, fun hab => ?_,
      fun hn => absurd h0 hn, fun _ _ => ⟨st', v, writes, rfl, fun hv => ?_, fun hv => ?_⟩⟩
    · rw [finish_status, setR_status, ht.status]
      exact probed_present_iff s.accept
    · rcases hab with hn | ha | hb
      · exact absurd h0 hn
      · exact absurd (ha ▸ hcd) (by decide)
      · exact absurd (hb ▸ hcd) (by decide)
    · exact hlow ((anyBitSet_iff v _).2 hv)
    · exact hgood (Bool.eq_false_iff.2 fun hbit => (anyBitSet_iff v _).1 hbit hv)

end Sys2Proof.Machine
end

section
/-! PROOF. The time codecs and their two burst transfers (R127 to R147): each field's formula, its way to the wire and
back, the round trip of a whole record, and how TIME.GET and TIME.SET end. -/

namespace Sys2Proof.Machine

open Sys2Proof

/-! ### What a field decodes to (R128, R140 to R144) -/

section
variable (b mask : Byte)

theorem decField_toNat : (decField b mask).toNat = bcdValue (b &&& mask) := bcdDecode_toNat _

/-- One less, modulo 256 (R143). -/
theorem monthDecode_toNat : (monthDecode b mask).toNat = (bcdValue (b &&& mask) + 255) % 256 := by
  rw [monthDecode, BitVec.toNat_sub, decField_toNat, Nat.add_comm]
  rfl

/-- A BCD byte is worth at most 165, so one more century never leaves the 9-bit port (R20, R144). -/
theorem year_toNat {c : Nat} (hc : c ≤ 100) :
    (BitVec.ofNat 9 ((decField b mask).toNat + c)).toNat = bcdValue (b &&& mask) + c := by
  have hle := bcdValue_le (b &&& mask)
  rw [decField_toNat, BitVec.toNat_ofNat]
  omega

theorem yearDecodeBiased_toNat (m : FieldMasks) (bias : YearBias) :
    (yearDecodeBiased m bias b).toNat = bcdValue (b &&& m.year) + bias.toNat :=
  year_toNat b m.year (by cases bias <;> decide)

theorem yearDecodeCentury_toNat (m : FieldMasks) (monthByte : Byte) :
    (yearDecodeCentury m b monthByte).toNat =
      bcdValue (b &&& m.year) + if monthByte.getLsbD 7 then 100 else 0 :=
  year_toNat b m.year (by split <;> decide)

end

/-- The search finds the first set bit if it starts no later and looks far enough. -/
theorem lowestSetFrom_eq_some {m : Byte} {k : Nat} (hset : m.getLsbD k = true) (fuel start : Nat) (hstart : start ≤ k)
    (hfuel : k < start + fuel) (hlow : ∀ j, start ≤ j → j < k → m.getLsbD j = false) :
    lowestSetFrom m fuel start = some k := by
  induction fuel generalizing start with
  | zero => exact absurd hfuel (Nat.not_lt.2 hstart)
  | succ fuel ih =>
    rcases hstart.eq_or_lt with rfl | hlt
    · rw [lowestSetFrom, if_pos hset]
    · rw [lowestSetFrom, hlow start le_rfl hlt]
      exact ih (start + 1) hlt (by omega) fun j hj => hlow j (by omega)

/-- The one-hot weekday is the index of the lowest set bit; then the free value plays no part (R141). -/
theorem wdayHotDecode_toNat {mask free b : Byte} {k : Nat} (hk : k < 8) (hset : (b &&& mask).getLsbD k = true)
    (hlow : ∀ j, j < k → (b &&& mask).getLsbD j = false) : (wdayHotDecode mask free b).toNat = k := by
  have hfound : lowestSet (b &&& mask) = some k :=
    lowestSetFrom_eq_some hset 8 0 (Nat.zero_le k) (by omega) fun j _ => hlow j
  rw [wdayHotDecode, hfound]
  exact (BitVec.toNat_ofNat k 8).trans (Nat.mod_eq_of_lt (by omega))

/-! ### What a field encodes to (R129, R140, R141) -/

theorem encField_eq_bcdByte (v : Nat) : encField v = bcdByte v := rfl

theorem monthEncode_eq_bcdByte (m : Byte) : monthEncode m = bcdByte (m.toNat + 1) := rfl

theorem yearEncode_eq_bcdByte (y : Year) : yearEncode y = bcdByte (y.toNat % 100) := rfl

theorem wday7Encode_eq_wireOfWeekday (w : Byte) : wday7Encode w = wireOfWeekday w := rfl

theorem wdayHotEncode_eq_two_pow (w : Byte) : wdayHotEncode w = BitVec.ofNat 8 (2 ^ w.toNat) := by
  apply BitVec.eq_of_toNat_eq
  simp [wdayHotEncode, Nat.shiftLeft_eq]

/-! ### A field to the wire and back, under the masks of R127 -/

/-- A mask of the low `k` bits keeps a byte that needs no more. -/
theorem and_eq_self_of_lt {b mask : Byte} {k : Nat} (hmask : mask.toNat = 2 ^ k - 1) (hb : b.toNat < 2 ^ k) :
    b &&& mask = b := by
  apply BitVec.eq_of_toNat_eq
  rw [BitVec.toNat_and, hmask, Nat.and_two_pow_sub_one_of_lt_two_pow hb]

/-- Up to 99 the wire byte is the two digits (R82). -/
theorem encField_toNat_of_le {v : Nat} (hv : v ≤ 99) : (encField v).toNat = 16 * (v / 10) + v % 10 := by
  have hbyte : (BitVec.ofNat 8 v).toNat = v := by
    rw [BitVec.toNat_ofNat]
    omega
  rw [encField, bcdEncode_toNat_of_le (by rwa [hbyte]), hbyte]

/-- A value of two digits comes back through every mask that its wire byte fits (R82, R127). -/
theorem decField_encField {v : Nat} {mask : Byte} {k : Nat} (hmask : mask.toNat = 2 ^ k - 1) (hv : v ≤ 99)
    (hfit : 16 * (v / 10) + v % 10 < 2 ^ k) : decField (encField v) mask = BitVec.ofNat 8 v := by
  rw [decField, and_eq_self_of_lt hmask (by rwa [encField_toNat_of_le hv])]
  refine bcdDecode_bcdEncode ?_
  rw [BitVec.toNat_ofNat]
  omega

theorem decField_encField_toNat {w mask : Byte} {k : Nat} (hmask : mask.toNat = 2 ^ k - 1) (hw : w.toNat ≤ 99)
    (hfit : 16 * (w.toNat / 10) + w.toNat % 10 < 2 ^ k) : decField (encField w.toNat) mask = w := by
  rw [decField_encField hmask hw hfit, BitVec.ofNat_toNat, BitVec.setWidth_eq]

/-- A single digit is its own BCD byte. -/
theorem encField_of_le_nine {w : Byte} (hw : w.toNat ≤ 9) : encField w.toNat = w := by
  apply BitVec.eq_of_toNat_eq
  rw [encField_toNat_of_le (by omega)]
  omega

/-- The weekday of chip D keeps its number (R142). -/
theorem wday_roundTrip {w : Byte} (hw : w.toNat ≤ 6) : encField w.toNat &&& 0x07#8 = w := by
  rw [encField_of_le_nine (by omega), and_eq_self_of_lt (k := 3) rfl (by omega)]

/-- Sunday goes as 7, and no other weekday does (R140). -/
theorem wday7_roundTrip {w : Byte} (hw : w.toNat ≤ 6) : wday7Decode 0x07#8 (wday7Encode w) = w := by
  by_cases h0 : w = 0
  · rw [h0]
    rfl
  · have h7 : w ≠ 7 := fun h => absurd (h ▸ hw) (by decide)
    rw [wday7Encode, if_neg h0, wday7Decode, wday_roundTrip hw, if_neg h7]

/-- The one bit of a one-hot weekday is also the lowest (R141). -/
theorem wdayHot_roundTrip {w : Byte} (hw : w.toNat ≤ 6) (free : Byte) :
    wdayHotDecode 0x7F#8 free (wdayHotEncode w) = w := by
  have hpow : 2 ^ w.toNat < 2 ^ 7 := Nat.pow_lt_pow_right (by decide) (by omega)
  have hbyte : (wdayHotEncode w).toNat = 2 ^ w.toNat := by
    rw [wdayHotEncode_eq_two_pow, BitVec.toNat_ofNat]
    exact Nat.mod_eq_of_lt (hpow.trans (by decide))
  have hmask : wdayHotEncode w &&& 0x7F#8 = wdayHotEncode w := and_eq_self_of_lt (k := 7) rfl (hbyte.trans_lt hpow)
  have hbit : ∀ j, (wdayHotEncode w &&& 0x7F#8).getLsbD j = decide (w.toNat = j) := fun j => by
    rw [hmask, BitVec.getLsbD, hbyte, Nat.testBit_two_pow]
  apply BitVec.eq_of_toNat_eq
  exact wdayHotDecode_toNat (by omega) ((hbit _).trans (decide_eq_true rfl))
    fun j hj => (hbit j).trans (decide_eq_false hj.ne')

/-- The wire month is one more, and below 0x13 (R143). -/
theorem month_roundTrip {m : Byte} (hm : m.toNat ≤ 11) : monthDecode (monthEncode m) 0x1F#8 = m := by
  rw [monthDecode, monthEncode, decField_encField (k := 5) rfl (by omega) (by omega)]
  bv_omega

/-- The century flag lies outside the month's mask (R66, R127). -/
theorem monthDecode_or_centuryFlag (b : Byte) (y : Year) :
    monthDecode (b ||| centuryFlag y) 0x1F#8 = monthDecode b 0x1F#8 := by
  have hflag : centuryFlag y &&& 0x1F#8 = 0#8 := by
    unfold centuryFlag
    split <;> rfl
  rw [monthDecode, decField, BitVec.and_or_distrib_right, hflag, BitVec.or_zero]
  rfl

/-- Bit 7 of the month byte is the century flag alone (R66). -/
theorem monthByte_getLsbD_seven {m : Byte} (hm : m.toNat ≤ 11) (y : Year) :
    (monthEncode m ||| centuryFlag y).getLsbD 7 = decide (100 ≤ y.toNat) := by
  have hmonth : (monthEncode m).getLsbD 7 = false :=
    Nat.testBit_lt_two_pow (by rw [monthEncode, encField_toNat_of_le (by omega)]; omega)
  rw [BitVec.getLsbD_or, hmonth, Bool.false_or, centuryFlag]
  by_cases hy : 100 ≤ y.toNat
  · rw [if_pos hy, decide_eq_true hy]
    rfl
  · rw [if_neg hy, decide_eq_false hy]
    rfl

section
variable {m : FieldMasks} (hmask : m.year = 0xFF#8) {y : Year}
include hmask

/-- The wire keeps the year within its century (R144). -/
theorem decField_yearEncode : (decField (yearEncode y) m.year).toNat = y.toNat % 100 := by
  rw [hmask, yearEncode, decField_encField (k := 8) rfl (by omega) (by omega), BitVec.toNat_ofNat]
  omega

/-- `YEAR_BIAS` names the century of a chip without a flag (R144). -/
theorem yearBiased_roundTrip {bias : YearBias} (hlo : bias.toNat ≤ y.toNat) (hhi : y.toNat ≤ bias.toNat + 99) :
    yearDecodeBiased m bias (yearEncode y) = y := by
  rw [yearDecodeBiased, decField_yearEncode hmask]
  apply BitVec.eq_of_toNat_eq
  rw [BitVec.toNat_ofNat]
  cases bias with
  | zero | hundred =>
    simp only [YearBias.toNat] at *
    omega

/-- The flag names the century of the others (R66, R144). -/
theorem yearCentury_roundTrip {monthByte : Byte} (hflag : monthByte.getLsbD 7 = decide (100 ≤ y.toNat))
    (hhi : y.toNat ≤ 199) : yearDecodeCentury m (yearEncode y) monthByte = y := by
  rw [yearDecodeCentury, decField_yearEncode hmask, hflag]
  simp only [decide_eq_true_eq]
  apply BitVec.eq_of_toNat_eq
  rw [BitVec.toNat_ofNat]
  split <;> omega

end

/-! ### The round trip of a record (R147) -/

/-- A record in the ranges of R20 whose year the variant can hold: 0..199 with the century flag, else the hundred years
from `YEAR_BIAS` (R144). -/
def CivilTime.heldBy (v : Chip) (p : Params) (t : CivilTime) : Prop :=
  t.inRange (if v = .b ∨ v = .d then 0 else p.yearBias.toNat) (if v = .b ∨ v = .d then 199 else p.yearBias.toNat + 99)

theorem heldBy_biased {v : Chip} {p : Params} {t : CivilTime} (hv : ¬ (v = .b ∨ v = .d)) (h : t.heldBy v p) :
    t.inRange p.yearBias.toNat (p.yearBias.toNat + 99) := by
  rwa [CivilTime.heldBy, if_neg hv, if_neg hv] at h

theorem heldBy_century {v : Chip} {p : Params} {t : CivilTime} (hv : v = .b ∨ v = .d) (h : t.heldBy v p) :
    t.inRange 0 199 := by
  rwa [CivilTime.heldBy, if_pos hv, if_pos hv] at h

/-- What the masks of R127 give back of the fields that every layout codes alike. -/
structure FieldsRoundTrip (m : FieldMasks) (t : CivilTime) : Prop where
  second : decField (encField t.second.toNat) m.second = t.second
  minute : decField (encField t.minute.toNat) m.minute = t.minute
  hour : decField (encField t.hour.toNat) m.hour = t.hour
  mday : decField (encField t.mday.toNat) m.date = t.mday
  month : monthDecode (monthEncode t.month) m.month = t.month
  flaggedMonth : monthDecode (monthEncode t.month ||| centuryFlag t.year) m.month = t.month

theorem fieldsRoundTrip_table {t : CivilTime} {lo hi : Nat} (h : t.inRange lo hi) :
    FieldsRoundTrip FieldMasks.table t := by
  obtain ⟨hsecond, hminute, hhour, -, hmday, hmonth, -⟩ := h
  exact
    { second := decField_encField_toNat (k := 7) rfl (by omega) (by omega)
      minute := decField_encField_toNat (k := 7) rfl (by omega) (by omega)
      hour := decField_encField_toNat (k := 6) rfl (by omega) (by omega)
      mday := decField_encField_toNat (k := 6) rfl (by omega) (by omega)
      month := month_roundTrip hmonth
      flaggedMonth := (monthDecode_or_centuryFlag _ _).trans (month_roundTrip hmonth) }

/-- The seven fields of a record decide it. -/
theorem civilTime_eq {x y : CivilTime} (f : x.second = y.second ∧ x.minute = y.minute ∧ x.hour = y.hour ∧
    x.mday = y.mday ∧ x.month = y.month ∧ x.year = y.year ∧ x.wday = y.wday) : x = y := by
  cases x
  cases y
  simpa using f

section
variable {p : Params} {t : CivilTime} (hmasks : p.masks = FieldMasks.table)
include hmasks

/-- The layouts with no century flag: 3W and A write Sunday as 7, C the weekday as one bit. -/
theorem timeDecode_timeEncode_biased (h : t.inRange p.yearBias.toNat (p.yearBias.toNat + 99)) (free : Byte) :
    timeDecode3W p (timeEncode3W p t) = t ∧ timeDecodeA p (timeEncodeA t) = t ∧
      timeDecodeC p free (timeEncodeC t) = t := by
  have f := fieldsRoundTrip_table h
  obtain ⟨-, -, -, -, -, -, hwday, hlo, hhi⟩ := h
  have year := yearBiased_roundTrip (m := FieldMasks.table) rfl hlo hhi
  simp only [timeDecode3W, timeDecodeA, timeDecodeC, hmasks]
  exact ⟨civilTime_eq ⟨f.second, f.minute, f.hour, f.mday, f.month, year, wday7_roundTrip hwday⟩,
    civilTime_eq ⟨f.second, f.minute, f.hour, f.mday, f.month, year, wday7_roundTrip hwday⟩,
    civilTime_eq ⟨f.second, f.minute, f.hour, f.mday, f.month, year, wdayHot_roundTrip hwday free⟩⟩

/-- The layouts with the century flag in the month byte: B writes Sunday as 7, D keeps the weekday's number. -/
theorem timeDecode_timeEncode_century (h : t.inRange 0 199) :
    timeDecodeB p (timeEncodeB t) = t ∧ timeDecodeD p (timeEncodeD t) = t := by
  have f := fieldsRoundTrip_table h
  obtain ⟨-, -, -, -, -, hmonth, hwday, -, hhi⟩ := h
  have year := yearCentury_roundTrip (m := FieldMasks.table) rfl (monthByte_getLsbD_seven hmonth t.year) hhi
  simp only [timeDecodeB, timeDecodeD, hmasks]
  exact ⟨civilTime_eq ⟨f.second, f.minute, f.hour, f.mday, f.flaggedMonth, year, wday7_roundTrip hwday⟩,
    civilTime_eq ⟨f.second, f.minute, f.hour, f.mday, f.flaggedMonth, year, wday_roundTrip hwday⟩⟩

/-- Decode after encode, for every variant and whatever the free weekday. -/
theorem timeDecode_timeEncode {v : Chip} (h : t.heldBy v p) (free : Byte) :
    timeDecode v p free (timeEncode v p t) = t := by
  cases v with
  | w3 =>
    obtain ⟨h3w, -⟩ := timeDecode_timeEncode_biased hmasks (heldBy_biased (by decide) h) free
    exact h3w
  | a =>
    obtain ⟨-, ha, -⟩ := timeDecode_timeEncode_biased hmasks (heldBy_biased (by decide) h) free
    exact ha
  | b =>
    obtain ⟨hb, -⟩ := timeDecode_timeEncode_century hmasks (heldBy_century (by decide) h)
    exact hb
  | c =>
    obtain ⟨-, -, hc⟩ := timeDecode_timeEncode_biased hmasks (heldBy_biased (by decide) h) free
    exact hc
  | d =>
    obtain ⟨-, hd⟩ := timeDecode_timeEncode_century hmasks (heldBy_century (by decide) h)
    exact hd

end

/-! ### The ten pure operations -/

section
variable (s : State)

/-- A decode emits no event and only presents on `rt` (R30). -/
theorem endedPure_decodeTime (v : Chip) (q : Buf) : EndedPure s (s.accept.decodeTime v q).finish :=
  endedPure_finish (performs_decodeTime (performs_refl _) v q) rfl

/-- An encode emits no event and only presents on `rbuf` (R30). -/
theorem endedPure_setRbuf (q : Buf) : EndedPure s (s.accept.setRbuf q).finish :=
  endedPure_finish (performs_setRbuf (performs_refl _) q) rfl

/-- `TIME.DEC.v` presents the decode of `buf` in the layout of `v`, on every chip (R51). -/
theorem exec_decOf (v : Chip) : exec (decOf v) s = .next (s.accept.decodeTime v s.ports.buf).finish := by
  cases v <;> rfl

/-- `TIME.ENC.v` presents the encode of `t` in the layout of `v`, on every chip (R51). -/
theorem exec_encOf (v : Chip) : exec (encOf v) s = .next (s.accept.setRbuf (timeEncode v s.cfg s.ports.t)).finish := by
  cases v <;> rfl

end

/-- Settles O45: what the encode presents on `rbuf` is the decode's operand. -/
theorem timeCodecRoundTrip : Obligations.TimeCodecRoundTrip := fun v s hmasks ht =>
  ⟨_, _, exec_encOf s v, exec_decOf _ v, timeDecode_timeEncode hmasks (v := v) ht _⟩

/-- Settles O37, field by field. -/
theorem timeDecode3WAndA : Obligations.TimeDecode3WAndA :=
  ⟨rfl, fun s =>
    ⟨⟨_, exec_decOf s .w3, endedPure_decodeTime s .w3 _, decField_toNat _ _, decField_toNat _ _, decField_toNat _ _,
        decField_toNat _ _, monthDecode_toNat _ _, rfl, yearDecodeBiased_toNat _ _ _⟩,
      ⟨_, exec_decOf s .a, endedPure_decodeTime s .a _, decField_toNat _ _, decField_toNat _ _, decField_toNat _ _,
        rfl, decField_toNat _ _, monthDecode_toNat _ _, yearDecodeBiased_toNat _ _ _⟩⟩⟩

/-- Settles O38, field by field. -/
theorem timeDecodeBAndD : Obligations.TimeDecodeBAndD :=
  ⟨rfl, fun s =>
    ⟨⟨_, exec_decOf s .b, endedPure_decodeTime s .b _, decField_toNat _ _, decField_toNat _ _, decField_toNat _ _,
        rfl, decField_toNat _ _, monthDecode_toNat _ _, yearDecodeCentury_toNat _ _ _⟩,
      ⟨_, exec_decOf s .d, endedPure_decodeTime s .d _, decField_toNat _ _, decField_toNat _ _, decField_toNat _ _,
        decField_toNat _ _, rfl, monthDecode_toNat _ _, yearDecodeCentury_toNat _ _ _⟩⟩⟩

/-- Settles O39, field by field; the weekday only where a bit is set. -/
theorem timeDecodeCIsTheFormula : Obligations.TimeDecodeC :=
  ⟨rfl, fun s => ⟨_, exec_decOf s .c, endedPure_decodeTime s .c _, decField_toNat _ _, decField_toNat _ _,
    decField_toNat _ _, fun _ hk hset hlow => wdayHotDecode_toNat hk hset hlow, decField_toNat _ _,
    monthDecode_toNat _ _, yearDecodeBiased_toNat _ _ _⟩⟩

theorem toList_take_seven (q : Buf) : q.toList.take 7 = [q.b0, q.b1, q.b2, q.b3, q.b4, q.b5, q.b6] := rfl

/-- Settles O40, byte by byte. -/
theorem timeEncode3WAndAAndC : Obligations.TimeEncode3WAndAAndC := by
  intro s
  refine ⟨⟨_, exec_encOf s .w3, endedPure_setRbuf s _, ?_⟩, ⟨_, exec_encOf s .a, endedPure_setRbuf s _, ?_⟩,
    ⟨_, exec_encOf s .c, endedPure_setRbuf s _, ?_⟩⟩
  · simp only [finish_res, setRbuf_res, timeEncode, timeEncode3W, Buf.toList, encField_eq_bcdByte,
      monthEncode_eq_bcdByte, yearEncode_eq_bcdByte, wday7Encode_eq_wireOfWeekday]
  · simp only [finish_res, setRbuf_res, timeEncode, timeEncodeA, toList_take_seven, encField_eq_bcdByte,
      monthEncode_eq_bcdByte, yearEncode_eq_bcdByte, wday7Encode_eq_wireOfWeekday]
  · simp only [finish_res, setRbuf_res, timeEncode, timeEncodeC, toList_take_seven, encField_eq_bcdByte,
      monthEncode_eq_bcdByte, yearEncode_eq_bcdByte, wdayHotEncode_eq_two_pow]

/-- Settles O41, byte by byte. -/
theorem timeEncodeBAndD : Obligations.TimeEncodeBAndD := by
  intro s
  refine ⟨⟨_, exec_encOf s .b, endedPure_setRbuf s _, ?_⟩, ⟨_, exec_encOf s .d, endedPure_setRbuf s _, ?_⟩⟩
  · simp only [finish_res, setRbuf_res, timeEncode, timeEncodeB, toList_take_seven, encField_eq_bcdByte,
      monthEncode_eq_bcdByte, yearEncode_eq_bcdByte, wday7Encode_eq_wireOfWeekday, centuryFlag]
  · simp only [finish_res, setRbuf_res, timeEncode, timeEncodeD, toList_take_seven, encField_eq_bcdByte,
      monthEncode_eq_bcdByte, yearEncode_eq_bcdByte, centuryFlag]

/-! ### TIME.GET and TIME.SET (R145, R146) -/

/-- `TIME.GET` of `s` has ended in `t`: `evs` is its one burst read, which brought `bytes`; they stand on `rbuf` and,
decoded in the layout of the chip, on `rt`. -/
structure TimeGot (s t : State) (evs : List Event) (bytes : List Byte) : Prop where
  run : exec .timeGet s = .next t
  ended : EndedWith s t evs
  ill : t.status.ill = false
  rbuf : t.res.rbuf = Buf.ofList bytes
  rt : t.res.rt = timeDecode s.cfg.chip s.cfg (Config.freeWday s.draws) t.res.rbuf
  line : s.cfg.chip = .w3 → bytes.length = s.cfg.burstRdLen ∧
    ∃ answers, SampledAll answers bytes ∧ evs = w3ReadEvents s.cfg s.cfg.burstRd answers
  bus : s.cfg.chip ≠ .w3 → bytes.length = 7 ∧ ∃ st, evs = i2cReadEvents s.cfg s.cfg.timeBase st bytes

theorem exec_timeGet_of_ok {s : State} (hok : timeBurstOk s.cfg = true) :
    ∃ t evs bytes, TimeGot s t evs bytes := by
  obtain ⟨evs, ht, hline, hbus⟩ := transports_timeBurstRead s.accept
  have hbody := performs_setRbuf ht.toPerforms (Buf.ofList s.accept.timeBurstRead.1)
  exact ⟨_, evs, s.accept.timeBurstRead.1,
    { run := (exec_timeGet s).trans (operate_of_ok hok _ s)
      ended := endedWith_finish (performs_decodeTime hbody _ _)
      ill := ill_setRbuf carries_timeBurstRead (Buf.ofList s.accept.timeBurstRead.1)
      rbuf := rfl
      rt := by
        rw [finish_res, decodeTime_res, setRbuf_cfg, setRbuf_draws, ht.cfg, ht.draws]
        rfl
      line := hline
      bus := fun hc =>
        have ⟨hlen, _, hst⟩ := hbus hc
        ⟨hlen, hst⟩ }⟩

/-- The length register asks for more than a burst holds, or for nothing (R75; log 15). -/
theorem exec_timeGet_refused {s : State} (hok : timeBurstOk s.cfg = false) : exec .timeGet s = .next s.refuse := by
  rw [exec_timeGet, hok, operate_false]

/-- The encoding, then one burst write of it. -/
theorem exec_timeSet_ends (s : State) : ∃ t evs, exec .timeSet s = .next t ∧ EndedWith s t evs ∧
    t.res.rbuf = timeEncode s.cfg.chip s.cfg s.ports.t ∧
    (s.cfg.chip = .w3 → evs = w3WriteEvents s.cfg s.cfg.burstWr t.res.rbuf.toList) ∧
    (s.cfg.chip ≠ .w3 → ∃ st, evs = i2cWriteEvents s.cfg s.cfg.timeBase (t.res.rbuf.toList.take 7) st) := by
  obtain ⟨evs, ht, hline, hbus⟩ := transports_timeBurstWrite (timeEncode s.cfg.chip s.cfg s.ports.t)
    (s.accept.setRbuf (timeEncode s.cfg.chip s.cfg s.ports.t))
  have hrbuf := congrArg Results.rbuf ht.res
  refine ⟨_, evs, exec_timeSet s,
    endedWith_finish (performs_trans (performs_setRbuf (performs_refl _) _) ht.toPerforms), hrbuf,
    fun hc => ?_, fun hc => ?_⟩
  · exact (hline hc).trans (congrArg (fun q : Buf => w3WriteEvents s.cfg s.cfg.burstWr q.toList) hrbuf.symm)
  · obtain ⟨-, st, hevs⟩ := hbus hc
    exact ⟨st, hevs.trans
      (congrArg (fun q : Buf => i2cWriteEvents s.cfg s.cfg.timeBase (q.toList.take 7) st) hrbuf.symm)⟩

/-- Settles O44: the encode operation of the chip presents the same bytes. -/
theorem timeSetEncodesThenBursts : Obligations.TimeSetEncodesThenBursts := by
  intro s
  obtain ⟨t, evs, hrun, hend, hrbuf, hline, hbus⟩ := exec_timeSet_ends s
  exact ⟨t, _, evs, hrun, exec_encOf s s.cfg.chip, hrbuf, hend, hline, hbus⟩

/-- Of a burst of at least seven bytes the first seven are the first seven on `rbuf`. -/
theorem toList_ofList_take_seven {bytes : List Byte} (h7 : 7 ≤ bytes.length) (h8 : bytes.length ≤ 8) :
    (Buf.ofList bytes).toList.take 7 = bytes.take 7 := by
  conv_rhs => rw [← first_ofList h8, Buf.first, List.take_take, Nat.min_eq_left h7]

/-- Settles O42: the same bytes decoded by themselves take the same free weekday, so the two records are one. -/
theorem timeGetDecodesOneBurst : Obligations.TimeGetDecodesOneBurst := by
  intro s hlen
  have hok : timeBurstOk s.cfg = true := by
    by_cases hc : s.cfg.chip = .w3
    · obtain ⟨h7, h8⟩ := hlen hc
      rw [timeBurstOk_of_w3 hc, burstLengthOk_iff]
      omega
    · exact timeBurstOk_of_ne hc
  obtain ⟨t, evs, bytes, got⟩ := exec_timeGet_of_ok hok
  have hbytes : 7 ≤ bytes.length ∧ bytes.length ≤ 8 := by
    by_cases hc : s.cfg.chip = .w3
    · obtain ⟨hl, -⟩ := got.line hc
      rw [hl]
      exact hlen hc
    · obtain ⟨hl, -⟩ := got.bus hc
      omega
  obtain ⟨h7, h8⟩ := hbytes
  refine ⟨t, _, evs, bytes, got.run, got.ended, got.line, got.bus, ?_, exec_decOf _ s.cfg.chip, ?_⟩
  · rw [got.rbuf, toList_ofList_take_seven h7 h8]
  · rw [got.rt]
    exact ⟨rfl, rfl, rfl, rfl, rfl, rfl, fun _ => rfl⟩

/-- Past the bytes of a burst `rbuf` shows 0 (log 5). -/
theorem toList_ofList_getD_of_length_le {bytes : List Byte} {k : Nat} (hk : bytes.length ≤ k) :
    (Buf.ofList bytes).toList.getD k 0 = 0 := by
  by_cases h8 : k < 8
  · rw [toList_ofList_getD bytes h8, List.getD_eq_default _ _ hk]
  · exact List.getD_eq_default _ _ (Nat.not_lt.1 h8)

/-- Settles O43: the burst brings `burstRdLen` bytes to the front of `rbuf`, or is not accepted. -/
theorem timeGetWithOtherLengths : Obligations.TimeGetWithOtherLengths := by
  intro s hc
  refine ⟨fun h1 h6 => ?_, fun hout => ⟨_, exec_timeGet_refused ?_, refused_refuse s⟩⟩
  · obtain ⟨t, _, bytes, got⟩ :=
      exec_timeGet_of_ok ((timeBurstOk_of_w3 hc).trans (burstLengthOk_iff.2 ⟨h1, h6.trans (by decide)⟩))
    obtain ⟨hlen, answers, hall, rfl⟩ := got.line hc
    refine ⟨t, answers, got.run, got.ill, got.ended, ?_, fun k hk => ?_⟩
    · have hfirst : (Buf.ofList bytes).toList.take bytes.length = bytes :=
        first_ofList (hlen.trans_le (h6.trans (by decide)))
      rwa [got.rbuf, ← hlen, hfirst]
    · rw [got.rbuf]
      exact toList_ofList_getD_of_length_le (hlen.trans_le hk)
  · rw [timeBurstOk_of_w3 hc, Bool.eq_false_iff, Ne, burstLengthOk_iff]
    omega

/-! ### The time set is the time got (R31) -/

/-- A decode looks at the seven bytes of R60 to R64 alone. -/
theorem timeDecode_congr {q r : Buf} (h : ∀ k, k < 7 → q.toList.getD k 0 = r.toList.getD k 0) (v : Chip) (p : Params)
    (free : Byte) : timeDecode v p free q = timeDecode v p free r := by
  have h0 : q.b0 = r.b0 := h 0 (by decide)
  have h1 : q.b1 = r.b1 := h 1 (by decide)
  have h2 : q.b2 = r.b2 := h 2 (by decide)
  have h3 : q.b3 = r.b3 := h 3 (by decide)
  have h4 : q.b4 = r.b4 := h 4 (by decide)
  have h5 : q.b5 = r.b5 := h 5 (by decide)
  have h6 : q.b6 = r.b6 := h 6 (by decide)
  cases v <;>
    simp only [timeDecode, timeDecode3W, timeDecodeA, timeDecodeB, timeDecodeC, timeDecodeD, h0, h1, h2, h3, h4, h5, h6]

theorem mode_foldl_after (evs : List Event) (e : Env) : (evs.foldl Env.after e).mode = e.mode := by
  induction evs generalizing e with
  | nil => rfl
  | cons ev evs ih => exact (ih (e.after ev)).trans (mode_after e ev)

/-- The outcome of an operation is one (R205). -/
theorem next_unique {i : Instr} {s t u : State} (ht : exec i s = .next t) (hu : exec i s = .next u) : t = u :=
  Host.Outcome.next.inj (ht.symm.trans hu)

/-- With the reference device the time got is the decode of the seven bytes it holds from `TIME_BASE` on (log 4). -/
theorem timeGet_rt_reference {t : State} {q : Buf} (hc : t.cfg.chip ≠ .w3) (hm : t.env.mode = .reference)
    (hheld : ∀ k, k < 7 → t.deviceByte (t.cfg.timeBase + BitVec.ofNat 8 k) = q.toList.getD k 0) :
    ∃ u, exec .timeGet t = .next u ∧ u.res.rt = timeDecode t.cfg.chip t.cfg (Config.freeWday t.draws) q := by
  obtain ⟨u, _, _, got⟩ := exec_timeGet_of_ok (timeBurstOk_of_ne hc)
  obtain ⟨-, -, -, -, u', hrun, hanswered⟩ := referenceDeviceAnswersWhatItHolds t hc hm
  obtain rfl := next_unique got.run hrun
  exact ⟨u, hrun, got.rt.trans (timeDecode_congr (fun k hk => (hanswered k hk).trans (hheld k hk)) _ _ _)⟩

/-- Settles O19: the device holds the encoding that was set, and the decode of that is the record. -/
theorem timeSetThenGetReturnsTheTime : Obligations.TimeSetThenGetReturnsTheTime := by
  intro s t hc hm hwf hmasks ht hset
  obtain ⟨t', evs, hrun, ⟨hended, -, -, henv⟩, hrbuf, -⟩ := exec_timeSet_ends s
  obtain ⟨-, -, -, -, t'', hrun', hheld⟩ := referenceDeviceHoldsWhatIsWritten s hc hm hwf
  obtain rfl := next_unique hset hrun
  obtain rfl := next_unique hset hrun'
  obtain ⟨-, -, -, -, hcfg, -⟩ := hended
  have hmode : t.env.mode = .reference := by rw [henv, mode_foldl_after, hm]
  obtain ⟨u, hget, hrt⟩ := timeGet_rt_reference (t := t) (hcfg ▸ hc) hmode (hcfg ▸ hheld)
  refine ⟨u, hget, hrt.trans ?_⟩
  rw [hcfg, hrbuf]
  exact timeDecode_timeEncode hmasks ht _

end Sys2Proof.Machine
end

section
/-! PROOF. The alarm codecs and the trickle charger (R155 to R175): what the value and mask bits of an alarm byte decode to
and encode to, the round trips of the three alarm forms, and the look-up of R175. -/

namespace Sys2Proof.Machine

open Sys2Proof

/-! ### The rates (R156, R158, R162, R163) -/

/-- Five of the sixteen patterns of activity bits are rates, the selector splitting the last in two (R158). -/
theorem rate4OfMask_code : ∀ a1 a2 a3 a4 sel : Bool, (rate4OfMask a1 a2 a3 a4 sel).code =
    (if [a1, a2, a3, a4] = [false, false, false, false] then 0#3
     else if [a1, a2, a3, a4] = [true, false, false, false] then 1#3
     else if [a1, a2, a3, a4] = [true, true, false, false] then 2#3
     else if [a1, a2, a3, a4] = [true, true, true, false] then 3#3
     else if [a1, a2, a3, a4] = [true, true, true, true] then (if sel then 5#3 else 4#3)
     else 7#3) := by
  decide

/-- Four of the eight patterns of activity bits are rates (R163). -/
theorem rate3OfMask_code : ∀ a2 a3 a4 sel : Bool, (rate3OfMask a2 a3 a4 sel).code =
    (if [a2, a3, a4] = [false, false, false] then 0#3
     else if [a2, a3, a4] = [true, false, false] then 2#3
     else if [a2, a3, a4] = [true, true, false] then 3#3
     else if [a2, a3, a4] = [true, true, true] then (if sel then 5#3 else 4#3)
     else 7#3) := by
  decide

/-- `rate_invalid` and the code 7 on `rrate` go together (R52, R158). -/
theorem rate4_beq_invalid_iff (r : Rate4) : (r == .invalid) = true ↔ r.code = 7#3 := by
  cases r <;> decide

theorem rate3_beq_invalid_iff (r : Rate3) : (r == .invalid) = true ↔ r.code = 7#3 := by
  cases r <;> decide

/-- The levels of R156 by rate number; Invalid and the unused code have level 0 (R159). -/
theorem rate4Level_rate4OfCode : ∀ c : BitVec 3,
    rate4Level (rate4OfCode c) = [0, 1, 2, 3, 4, 4, 0, 0].getD c.toNat 0 := by
  decide

/-- The levels of R162 by rate number; Invalid and the unused codes have level 0 (R164). -/
theorem rate3Level_rate3OfCode : ∀ c : BitVec 3,
    rate3Level (rate3OfCode c) = [0, 0, 1, 2, 3, 3, 0, 0].getD c.toNat 0 := by
  decide

theorem rate4OfCode_beq_matchWeekday : ∀ c : BitVec 3, (rate4OfCode c == .matchWeekday) = decide (c = 5#3) := by
  decide

theorem rate3OfCode_beq_matchWeekday : ∀ c : BitVec 3, (rate3OfCode c == .matchWeekday) = decide (c = 5#3) := by
  decide

/-- The six numbers of R52 name their rates. -/
theorem rate4OfCode_of_le_five : ∀ c : BitVec 3, c.toNat ≤ 5 →
    (rate4OfCode c).code = c ∧ rate4OfCode c ≠ .invalid := by
  decide

/-- The five numbers of R52 name their rates. -/
theorem rate3OfCode_of_mem : ∀ c : BitVec 3, c.toNat ∈ [0, 2, 3, 4, 5] →
    (rate3OfCode c).code = c ∧ rate3OfCode c ≠ .invalid := by
  decide

/-- A level makes the first fields active, and with the selector that is the rate's own pattern (R157). -/
theorem rate4OfMask_rate4Level {r : Rate4} (hr : r ≠ .invalid) :
    rate4OfMask (decide (1 ≤ rate4Level r)) (decide (2 ≤ rate4Level r)) (decide (3 ≤ rate4Level r))
      (decide (4 ≤ rate4Level r)) (r == .matchWeekday) = r := by
  cases r with
  | invalid => exact absurd rfl hr
  | _ => rfl

theorem rate3OfMask_rate3Level {r : Rate3} (hr : r ≠ .invalid) :
    rate3OfMask (decide (1 ≤ rate3Level r)) (decide (2 ≤ rate3Level r)) (decide (3 ≤ rate3Level r))
      (r == .matchWeekday) = r := by
  cases r with
  | invalid => exact absurd rfl hr
  | _ => rfl

/-! ### The mask bit over the value bits (R157, R159, R160) -/

section
variable (p : Params) (v : Byte) (k level : Nat)

/-- The mask bit is bit 7 or nothing: it is set where the activity and `ALARM_MASK_ACTIVE` agree (R157). -/
theorem maskBit_eq : maskBit p k level = if decide (k ≤ level) == p.alarmMaskActive then 0x80#8 else 0x00#8 := by
  have hbit : (if k ≤ level then p.alarmMaskActive else !p.alarmMaskActive) =
      (decide (k ≤ level) == p.alarmMaskActive) := by
    by_cases h : k ≤ level
    · rw [if_pos h, decide_eq_true h, Bool.true_beq]
    · rw [if_neg h, decide_eq_false h, Bool.false_beq]
  rw [maskBit, hbit]

/-- Masked with the value bits alone, the mask bit is gone (R160). -/
theorem or_maskBit_and {mask : Byte} (hmask : 0x80#8 &&& mask = 0x00#8) :
    (v ||| maskBit p k level) &&& mask = v &&& mask := by
  have hbit : maskBit p k level &&& mask = 0#8 := by
    rw [maskBit_eq]
    split
    · exact hmask
    · exact BitVec.zero_and
  rw [BitVec.and_or_distrib_right, hbit, BitVec.or_zero]

theorem decField_or_maskBit {mask : Byte} (hmask : 0x80#8 &&& mask = 0x00#8) :
    decField (v ||| maskBit p k level) mask = decField v mask := by
  rw [decField, or_maskBit_and p v k level hmask]
  rfl

theorem wday7Decode_or_maskBit : wday7Decode 0x07#8 (v ||| maskBit p k level) = wday7Decode 0x07#8 v := by
  rw [wday7Decode, or_maskBit_and p v k level rfl]
  rfl

/-- Over a value that leaves bit 7 free, field `k` is active exactly up to the level (R157, R159). -/
theorem alarmActive_or_maskBit (hv : v.getLsbD 7 = false) :
    alarmActive p (v ||| maskBit p k level) = decide (k ≤ level) := by
  rw [alarmActive, BitVec.getLsbD_or, hv, Bool.false_or, maskBit_eq]
  cases decide (k ≤ level) <;> cases p.alarmMaskActive <;> rfl

/-- The selector lies below bit 7 (R6). -/
theorem alarmSelector_or_maskBit : alarmSelector p (v ||| maskBit p k level) = alarmSelector p v := by
  have hlow : (0x80#8).getLsbD p.selBit.val = false := by
    generalize p.selBit = j
    revert j
    decide
  rw [alarmSelector, BitVec.getLsbD_or, maskBit_eq]
  split <;> simp [alarmSelector, hlow]

end

/-! ### Alarm bytes: the formulas of R158 to R164 -/

section
variable (p : Params)

/-- The value fields that both rate alarms hold (R160); what they do not hold is 0. -/
theorem alarmTime_formulas (second min hr day : Byte) :
    (alarmTime p second min hr day).minute.toNat = bcdValue (min &&& 0x7F#8) ∧
    (alarmTime p second min hr day).hour.toNat = bcdValue (hr &&& 0x3F#8) ∧
    (alarmTime p second min hr day).mday.toNat =
      (if day.getLsbD p.selBit.val then 0 else bcdValue (day &&& 0x3F#8)) ∧
    (alarmTime p second min hr day).wday =
      (if day.getLsbD p.selBit.val then weekdayOfWire (day &&& 0x07#8) else 0x00#8) ∧
    (alarmTime p second min hr day).month = 0 ∧ (alarmTime p second min hr day).year = 0 := by
  refine ⟨decField_toNat _ _, decField_toNat _ _, ?_, rfl, rfl, rfl⟩
  rw [alarmTime, alarmSelector, apply_ite BitVec.toNat, decField_toNat]
  rfl

/-- The day byte of a rate number: the weekday with the selector for MatchWeekday, else the date (R159, R164). -/
theorem alarmDayByte_decide (c : BitVec 3) (t : CivilTime) :
    alarmDayByte p (decide (c = 5#3)) t =
      if c = 5#3 then wireOfWeekday t.wday ||| (1#8 <<< p.selBit.val) else bcdByte t.mday.toNat := by
  simp only [alarmDayByte, decide_eq_true_eq, wday7Encode_eq_wireOfWeekday, encField_eq_bcdByte]

end

/-! ### Alarm bytes to the wire and back (R161, R165) -/

/-- A value below 80 has no more than three bits of tens, so bit 7 stays free for the mask bit (R157). -/
theorem encField_getLsbD_seven {v : Nat} (hv : v < 80) : (encField v).getLsbD 7 = false :=
  Nat.testBit_lt_two_pow (by rw [encField_toNat_of_le (by omega)]; omega)

/-- Sunday's 7 is the largest wire weekday (R140). -/
theorem wday7Encode_toNat_lt {w : Byte} (hw : w.toNat ≤ 6) : (wday7Encode w).toNat < 8 := by
  rw [wday7Encode]
  split
  · decide
  · rw [encField_of_le_nine (by omega)]
    omega

/-- What the day byte `d` of a record gives back: bit 7 is free, the selector tells which of the two targets it holds,
and that target decodes to itself. -/
structure DayByteHolds (p : Params) (weekday : Bool) (t : CivilTime) (d : Byte) : Prop where
  maskFree : d.getLsbD 7 = false
  selector : alarmSelector p d = weekday
  mday : weekday = false → decField d 0x3F#8 = t.mday
  wday : weekday = true → wday7Decode 0x07#8 d = t.wday

section
variable {p : Params} {t : CivilTime} {lo hi : Nat} (hsel : p.selBit = 6) (ht : t.inRange lo hi)
include hsel ht

/-- With the selector at bit 6, above the date's six bits and the weekday's three (R6). -/
theorem dayByteHolds_alarmDayByte (weekday : Bool) : DayByteHolds p weekday t (alarmDayByte p weekday t) := by
  obtain ⟨-, -, -, -, hmday, -, hwday, -, -⟩ := ht
  have hselVal : p.selBit.val = 6 := congrArg Fin.val hsel
  cases weekday with
  | false =>
    have hlow : (encField t.mday.toNat).toNat < 2 ^ 6 := by
      rw [encField_toNat_of_le (by omega)]
      omega
    exact
      { maskFree := encField_getLsbD_seven (by omega)
        selector := by rw [alarmSelector, hselVal]; exact Nat.testBit_lt_two_pow hlow
        mday := fun _ => decField_encField_toNat (k := 6) rfl (by omega) (by omega)
        wday := nofun }
  | true =>
    have hlow := wday7Encode_toNat_lt hwday
    have hbyte : alarmDayByte p true t = wday7Encode t.wday ||| 0x40#8 := by
      rw [alarmDayByte, hselVal]
      rfl
    have hmasked : (wday7Encode t.wday ||| 0x40#8) &&& 0x07#8 = wday7Encode t.wday &&& 0x07#8 := by
      rw [BitVec.and_or_distrib_right]
      exact BitVec.or_zero
    have hseven : (wday7Encode t.wday).getLsbD 7 = false := Nat.testBit_lt_two_pow (by omega)
    rw [hbyte]
    exact
      { maskFree := by rw [BitVec.getLsbD_or, hseven]; rfl
        selector := by rw [alarmSelector, hselVal, BitVec.getLsbD_or]; exact Bool.or_true _
        mday := nofun
        wday := fun _ => by
          rw [wday7Decode, hmasked]
          exact wday7_roundTrip hwday }

/-- The value fields of both rate alarms come back, whatever the mask bits (R161, R165). -/
theorem alarmTime_encoded {x second : Byte} (hx : x = second) (weekday : Bool) (i j k level : Nat) :
    alarmTime p x (encField t.minute.toNat ||| maskBit p i level) (encField t.hour.toNat ||| maskBit p j level)
      (alarmDayByte p weekday t ||| maskBit p k level) =
    { CivilTime.zero with
      second := second, minute := t.minute, hour := t.hour,
      mday := if weekday then 0 else t.mday, wday := if weekday then t.wday else 0 } := by
  have hday := dayByteHolds_alarmDayByte hsel ht weekday
  have hf := fieldsRoundTrip_table ht
  have hminute : decField (encField t.minute.toNat) 0x7F#8 = t.minute := hf.minute
  have hhour : decField (encField t.hour.toNat) 0x3F#8 = t.hour := hf.hour
  rw [alarmTime, alarmSelector_or_maskBit, hday.selector, decField_or_maskBit _ _ _ _ rfl, hminute,
    decField_or_maskBit _ _ _ _ rfl, hhour, decField_or_maskBit _ _ _ _ rfl, wday7Decode_or_maskBit, hx]
  cases weekday with
  | false => rw [hday.mday rfl]; rfl
  | true => rw [hday.wday rfl]; rfl

/-- `ALM4.DEC` reads the rate that `ALM4.ENC` wrote (R161). -/
theorem alm4Rate_encoded {r : Rate4} (hr : r ≠ .invalid) :
    alm4Rate p (encField t.second.toNat ||| maskBit p 1 (rate4Level r))
      (encField t.minute.toNat ||| maskBit p 2 (rate4Level r))
      (encField t.hour.toNat ||| maskBit p 3 (rate4Level r))
      (alarmDayByte p (r == .matchWeekday) t ||| maskBit p 4 (rate4Level r)) = r := by
  have hday := dayByteHolds_alarmDayByte hsel ht (r == .matchWeekday)
  obtain ⟨hsecond, hminute, hhour, -⟩ := ht
  rw [alm4Rate, alarmActive_or_maskBit _ _ _ _ (encField_getLsbD_seven (by omega)),
    alarmActive_or_maskBit _ _ _ _ (encField_getLsbD_seven (by omega)),
    alarmActive_or_maskBit _ _ _ _ (encField_getLsbD_seven (by omega)),
    alarmActive_or_maskBit _ _ _ _ hday.maskFree, alarmSelector_or_maskBit, hday.selector]
  exact rate4OfMask_rate4Level hr

/-- `ALM3.DEC` reads the rate that `ALM3.ENC` wrote (R165). -/
theorem alm3Rate_encoded {r : Rate3} (hr : r ≠ .invalid) :
    alm3Rate p (encField t.minute.toNat ||| maskBit p 1 (rate3Level r))
      (encField t.hour.toNat ||| maskBit p 2 (rate3Level r))
      (alarmDayByte p (r == .matchWeekday) t ||| maskBit p 3 (rate3Level r)) = r := by
  have hday := dayByteHolds_alarmDayByte hsel ht (r == .matchWeekday)
  obtain ⟨-, hminute, hhour, -⟩ := ht
  rw [alm3Rate, alarmActive_or_maskBit _ _ _ _ (encField_getLsbD_seven (by omega)),
    alarmActive_or_maskBit _ _ _ _ (encField_getLsbD_seven (by omega)),
    alarmActive_or_maskBit _ _ _ _ hday.maskFree, alarmSelector_or_maskBit, hday.selector]
  exact rate3OfMask_rate3Level hr

end

/-! ### The four rate operations -/

section
variable (s : State)

/-- A rate decode emits no event and only presents on `rrate`, `rt` and `rate_invalid` (R30). -/
theorem endedPure_setAlarm (code : BitVec 3) (t : CivilTime) (bad : Bool) :
    EndedPure s (s.accept.setAlarm code t bad).finish :=
  endedPure_finish ⟨rfl, rfl, rfl, rfl, rfl, (List.append_nil _).symm, rfl, rfl⟩ rfl

/-- `ALM4.DEC` presents the rate and the time that its four bytes hold (R158). -/
theorem exec_alm4Dec_of_holds {r : Rate4} {t : CivilTime}
    (hr : alm4Rate s.cfg s.ports.buf.b0 s.ports.buf.b1 s.ports.buf.b2 s.ports.buf.b3 = r)
    (ht : alarmTime s.cfg (decField s.ports.buf.b0 0x7F#8) s.ports.buf.b1 s.ports.buf.b2 s.ports.buf.b3 = t) :
    exec .alm4Dec s = .next (s.accept.setAlarm r.code t (r == .invalid)).finish := by
  subst hr ht
  rw [exec_alm4Dec, operate_true, accept_ports, accept_cfg]

/-- `ALM3.DEC` presents the rate and the time that its three bytes hold (R163). -/
theorem exec_alm3Dec_of_holds {r : Rate3} {t : CivilTime}
    (hr : alm3Rate s.cfg s.ports.buf.b0 s.ports.buf.b1 s.ports.buf.b2 = r)
    (ht : alarmTime s.cfg 0 s.ports.buf.b0 s.ports.buf.b1 s.ports.buf.b2 = t) :
    exec .alm3Dec s = .next (s.accept.setAlarm r.code t (r == .invalid)).finish := by
  subst hr ht
  rw [exec_alm3Dec, operate_true, accept_ports, accept_cfg]

theorem exec_alm4Enc_next : exec .alm4Enc s =
    .next (s.accept.setRbuf (Buf.ofList (alm4Encode s.cfg (rate4OfCode s.ports.rate) s.ports.t))).finish := by
  rw [exec_alm4Enc, operate_true, accept_ports, accept_cfg]

theorem exec_alm3Enc_next : exec .alm3Enc s =
    .next (s.accept.setRbuf (Buf.ofList (alm3Encode s.cfg (rate3OfCode s.ports.rate) s.ports.t))).finish := by
  rw [exec_alm3Enc, operate_true, accept_ports, accept_cfg]

end

/-- Settles O50: what the encode presents on `rbuf` holds the rate and the fields it was given. -/
theorem alarmRoundTrips : Obligations.AlarmRoundTrips := by
  intro s hsel ht
  refine ⟨fun hc => ?_, fun hc => ?_⟩
  · obtain ⟨hcode, hvalid⟩ := rate4OfCode_of_le_five s.ports.rate hc
    have hsecond (level : Nat) :
        decField (encField s.ports.t.second.toNat ||| maskBit s.cfg 1 level) 0x7F#8 = s.ports.t.second :=
      (decField_or_maskBit _ _ _ _ rfl).trans (fieldsRoundTrip_table ht).second
    refine ⟨_, _, exec_alm4Enc_next s,
      exec_alm4Dec_of_holds _ (alm4Rate_encoded hsel ht hvalid) (alarmTime_encoded hsel ht (hsecond _) _ 2 3 4 _),
      hcode, beq_false_of_ne hvalid, ?_⟩
    simp only [finish_res, setAlarm_res, rate4OfCode_beq_matchWeekday, decide_eq_true_eq]
  · obtain ⟨hcode, hvalid⟩ := rate3OfCode_of_mem s.ports.rate hc
    refine ⟨_, _, exec_alm3Enc_next s,
      exec_alm3Dec_of_holds _ (alm3Rate_encoded hsel ht hvalid) (alarmTime_encoded hsel ht rfl _ 1 2 3 _),
      hcode, beq_false_of_ne hvalid, ?_⟩
    simp only [finish_res, setAlarm_res, rate3OfCode_beq_matchWeekday, decide_eq_true_eq]
    rfl

/-- Settles O46: the chain of patterns, then field by field. -/
theorem alarm4Decode : Obligations.Alarm4Decode := fun s =>
  ⟨_, exec_alm4Dec_of_holds s rfl rfl, endedPure_setAlarm s _ _ _, rate4OfMask_code _ _ _ _ _,
    rate4_beq_invalid_iff _, decField_toNat _ _, alarmTime_formulas _ _ _ _ _⟩

/-- Settles O48: the chain of patterns, then field by field. -/
theorem alarm3Decode : Obligations.Alarm3Decode := fun s =>
  ⟨_, exec_alm3Dec_of_holds s rfl rfl, endedPure_setAlarm s _ _ _, rate3OfMask_code _ _ _ _,
    rate3_beq_invalid_iff _, rfl, alarmTime_formulas _ _ _ _ _⟩

/-- Settles O47, byte by byte, by the level and the target of the rate number. -/
theorem alarm4Encode : Obligations.Alarm4Encode := by
  intro s
  refine ⟨_, exec_alm4Enc_next s, endedPure_setRbuf s _, ?_⟩
  refine (first_ofList (l := alm4Encode _ _ _) (Nat.le_add_right 4 4)).trans ?_
  rw [alm4Encode, rate4Level_rate4OfCode, rate4OfCode_beq_matchWeekday, alarmDayByte_decide]
  rfl

/-- Settles O49, byte by byte, by the level and the target of the rate number. -/
theorem alarm3Encode : Obligations.Alarm3Encode := by
  intro s
  refine ⟨_, exec_alm3Enc_next s, endedPure_setRbuf s _, ?_⟩
  refine (first_ofList (l := alm3Encode _ _ _) (Nat.le_add_right 3 5)).trans ?_
  rw [alm3Encode, rate3Level_rate3OfCode, rate3OfCode_beq_matchWeekday, alarmDayByte_decide]
  rfl

/-! ### The day/date alarm (R167 to R170) -/

section
variable (p : Params) (day : Byte) (sel : Bool)

/-- Disabled first, else the value bits (R168). -/
theorem ddField_map_toNat (b mask : Byte) :
    (ddField b mask).map BitVec.toNat = if b.getLsbD 7 then none else some (bcdValue (b &&& mask)) := by
  unfold ddField
  split
  · rfl
  · rw [Option.map_some, decField_toNat]

theorem ddDecode_targets_of_disabled (min hr : Byte) (h : day.getLsbD 7 = true) :
    (ddDecode p min hr day sel).mday = none ∧ (ddDecode p min hr day sel).wdays = none := by
  simp only [ddDecode, h, if_true, and_self]

theorem ddDecode_targets_of_date (min hr : Byte) (h : day.getLsbD 7 = false) (hsel : sel = p.ddSelDate) :
    (ddDecode p min hr day sel).mday = some (decField day 0x3F#8) ∧ (ddDecode p min hr day sel).wdays = none := by
  simp only [ddDecode, h, hsel, Bool.false_eq_true, if_false, beq_self_eq_true, if_true, and_self]

theorem ddDecode_targets_of_weekdays (min hr : Byte) (h : day.getLsbD 7 = false) (hsel : sel ≠ p.ddSelDate) :
    (ddDecode p min hr day sel).mday = none ∧ (ddDecode p min hr day sel).wdays = some (day &&& 0x7F#8) := by
  simp only [ddDecode, h, beq_false_of_ne hsel, Bool.false_eq_true, if_false, and_self]

end

section
variable (p : Params) {dd : AlarmDD} (sel : Bool) {d w : Byte}

/-- Both targets supplied is forced disabled (R169). -/
theorem ddDay_of_both (hd : dd.mday = some d) (hw : dd.wdays = some w) : ddDay p dd sel = (0x80#8, sel) := by
  rw [ddDay, hd, hw]

theorem ddDay_of_date (hd : dd.mday = some d) (hw : dd.wdays = none) :
    ddDay p dd sel = (encField d.toNat, p.ddSelDate) := by
  rw [ddDay, hd, hw]

theorem ddDay_of_weekdays (hd : dd.mday = none) (hw : dd.wdays = some w) :
    ddDay p dd sel = (w &&& 0x7F#8, !p.ddSelDate) := by
  rw [ddDay, hd, hw]

theorem ddDay_of_off (hd : dd.mday = none) (hw : dd.wdays = none) : ddDay p dd sel = (0x80#8, sel) := by
  rw [ddDay, hd, hw]

end

/-- 0x80 for `Unset`, else the encoded field (R169). -/
theorem ddByte_eq (f : Option Byte) : ddByte f = match f with | none => 0x80#8 | some v => bcdByte v.toNat := by
  cases f <;> rfl

/-- The four fields of a day/date record decide it. -/
theorem alarmDD_eq {x y : AlarmDD} (f : x.minute = y.minute ∧ x.hour = y.hour ∧ x.mday = y.mday ∧
    x.wdays = y.wdays) : x = y := by
  cases x
  cases y
  simpa using f

/-- A field that leaves bit 7 free comes back, and so does `Unset` (R169, R170). -/
theorem ddField_ddByte {f : Option Byte} {mask : Byte} {k : Nat} (hmask : mask.toNat = 2 ^ k - 1)
    (hf : ∀ v, f = some v → v.toNat < 80 ∧ 16 * (v.toNat / 10) + v.toNat % 10 < 2 ^ k) :
    ddField (ddByte f) mask = f := by
  cases f with
  | none => rfl
  | some v =>
    obtain ⟨hv, hfit⟩ := hf v rfl
    rw [ddByte, ddField, encField_getLsbD_seven hv, if_neg Bool.false_ne_true,
      decField_encField_toNat hmask (by omega) hfit]

/-- The two targets that the day byte and the selector of `ALMD.ENC` decode to (R170): those of the record, or none when
both were supplied. -/
theorem ddDecode_ddDay_targets (p : Params) {dd : AlarmDD} (h : dd.inRange) (min hr : Byte) (sel : Bool) :
    let t := ddDecode p min hr (ddDay p dd sel).1 (ddDay p dd sel).2
    (dd.mday = none ∨ dd.wdays = none → t.mday = dd.mday ∧ t.wdays = dd.wdays) ∧
    (dd.mday ≠ none → dd.wdays ≠ none → t.mday = none ∧ t.wdays = none) := by
  obtain ⟨-, -, hmday, hwdays⟩ := h
  cases hd : dd.mday with
  | none =>
    refine ⟨fun _ => ?_, nofun⟩
    cases hw : dd.wdays with
    | none =>
      rw [ddDay_of_off p sel hd hw]
      exact ddDecode_targets_of_disabled p 0x80#8 sel min hr (by decide)
    | some w =>
      have hlow := hwdays w hw
      have hkept : w &&& 0x7F#8 = w := and_eq_self_of_lt (k := 7) rfl hlow
      rw [ddDay_of_weekdays p sel hd hw, hkept]
      obtain ⟨hm, hw'⟩ := ddDecode_targets_of_weekdays p w _ min hr (Nat.testBit_lt_two_pow hlow)
        (Bool.not_ne_self p.ddSelDate)
      exact ⟨hm, hw'.trans (congrArg some hkept)⟩
  | some d =>
    cases hw : dd.wdays with
    | none =>
      obtain ⟨-, hd31⟩ := hmday d hd
      refine ⟨fun _ => ?_, fun _ => nofun⟩
      rw [ddDay_of_date p sel hd hw]
      obtain ⟨hm, hw'⟩ := ddDecode_targets_of_date p (encField d.toNat) _ min hr (encField_getLsbD_seven (by omega)) rfl
      exact ⟨hm.trans (congrArg some (decField_encField_toNat (k := 6) rfl (by omega) (by omega))), hw'⟩
    | some w =>
      refine ⟨nofun, fun _ _ => ?_⟩
      rw [ddDay_of_both p sel hd hw]
      exact ddDecode_targets_of_disabled p 0x80#8 sel min hr (by decide)

section
variable (s : State)

theorem exec_almdDec_next : exec .almdDec s = .next ({ s.accept with res := { s.accept.res with
    rdd := ddDecode s.cfg s.ports.buf.b0 s.ports.buf.b1 s.ports.buf.b2 s.ports.c } } : State).finish := by
  rw [exec_almdDec, operate_true]
  rfl

theorem exec_almdEnc_next : exec .almdEnc s = .next ({ s.accept with res := { s.accept.res with
    rbuf := Buf.ofList (ddEncode s.cfg s.ports.dd s.ports.c)
    rsel := (ddDay s.cfg s.ports.dd s.ports.c).2 } } : State).finish := by
  rw [exec_almdEnc, operate_true]
  rfl

/-- An operation that only presents results emits no event (R30). -/
theorem endedPure_results (r : Results) : EndedPure s ({ s.accept with res := r } : State).finish :=
  endedPure_finish ⟨rfl, rfl, rfl, rfl, rfl, (List.append_nil _).symm, rfl, rfl⟩ rfl

end

/-- Settles O51: the disabled bits first, then the selector. -/
theorem dayDateAlarmDecode : Obligations.DayDateAlarmDecode := fun s =>
  ⟨_, exec_almdDec_next s, endedPure_results s _, ddField_map_toNat _ _, ddField_map_toNat _ _,
    fun hoff => ddDecode_targets_of_disabled s.cfg _ _ _ _ hoff,
    fun hon hsel =>
      have ⟨hmday, hwdays⟩ := ddDecode_targets_of_date s.cfg _ _ _ _ hon hsel
      ⟨(congrArg (Option.map BitVec.toNat) hmday).trans (congrArg some (decField_toNat _ _)), hwdays⟩,
    fun hon hsel => ddDecode_targets_of_weekdays s.cfg _ _ _ _ hon hsel, rfl⟩

/-- Settles O52: the two value fields, then the day byte and the selector in the four cases of R169. -/
theorem dayDateAlarmEncode : Obligations.DayDateAlarmEncode := by
  intro s
  have hday {x : Byte × Bool} (h : ddDay s.cfg s.ports.dd s.ports.c = x) :
      (ddDay s.cfg s.ports.dd s.ports.c).1 = x.1 ∧ (ddDay s.cfg s.ports.dd s.ports.c).2 = x.2 := by
    rw [h]
    exact ⟨rfl, rfl⟩
  refine ⟨_, exec_almdEnc_next s, endedPure_results s _, ?_, ?_, fun hm hw => ?_,
    fun _ hm hw => hday (ddDay_of_date s.cfg _ hm hw), fun _ hm hw => hday (ddDay_of_weekdays s.cfg _ hm hw),
    fun hm hw => hday (ddDay_of_off s.cfg _ hm hw)⟩
  · exact ddByte_eq _
  · exact ddByte_eq _
  · obtain ⟨_, hd⟩ := Option.ne_none_iff_exists'.1 hm
    obtain ⟨_, hw⟩ := Option.ne_none_iff_exists'.1 hw
    exact hday (ddDay_of_both s.cfg _ hd hw)

/-- Settles O53: minute and hour come back field by field, the targets by `ddDecode_ddDay_targets`. -/
theorem dayDateAlarmRoundTrip : Obligations.DayDateAlarmRoundTrip := by
  intro s h
  obtain ⟨hone, hboth⟩ := ddDecode_ddDay_targets s.cfg h (ddByte s.ports.dd.minute) (ddByte s.ports.dd.hour) s.ports.c
  refine ⟨_, _, exec_almdEnc_next s, exec_almdDec_next _, fun hset => ?_, hboth⟩
  obtain ⟨hmday, hwdays⟩ := hone hset
  obtain ⟨hminute, hhour, -, -⟩ := h
  exact alarmDD_eq
    ⟨ddField_ddByte (k := 7) rfl fun v hv => by have := hminute v hv; omega,
      ddField_ddByte (k := 6) rfl fun v hv => by have := hhour v hv; omega, hmday, hwdays⟩

/-! ### The trickle charger (R175) -/

section
variable {a : Byte} {table : List (Byte × Fin 7)}

theorem tcsLookup_eq_none (h : a ∉ table.map Prod.fst) : tcsLookup a table = none := by
  induction table with
  | nil => rfl
  | cons row rest ih =>
    rw [List.map_cons, List.mem_cons, not_or] at h
    obtain ⟨hne, hrest⟩ := h
    rw [tcsLookup, if_neg (Ne.symm hne), ih hrest]

/-- The first row of a byte decides (R175). -/
theorem tcsLookup_of_first {before : List (Byte × Fin 7)} (h : a ∉ before.map Prod.fst) (m : Fin 7)
    (after : List (Byte × Fin 7)) : tcsLookup a (before ++ (a, m) :: after) = some m := by
  induction before with
  | nil => rw [List.nil_append, tcsLookup, if_pos rfl]
  | cons row rest ih =>
    rw [List.map_cons, List.mem_cons, not_or] at h
    obtain ⟨hne, hrest⟩ := h
    rw [List.cons_append, tcsLookup, if_neg (Ne.symm hne), ih hrest]

variable {p : Params}

theorem tcsMode_of_none (h : tcsLookup a p.tcsTable = none) : tcsMode p a = 0x00#8 ∧ tcsUnknown p a = true := by
  rw [tcsMode, tcsUnknown, h]
  exact ⟨rfl, rfl⟩

theorem tcsMode_of_some {m : Fin 7} (h : tcsLookup a p.tcsTable = some m) :
    (tcsMode p a).toNat = m.val ∧ tcsUnknown p a = false := by
  rw [tcsMode, tcsUnknown, h]
  exact ⟨Nat.mod_eq_of_lt (m.isLt.trans (by decide)), rfl⟩

theorem mem_of_tcsLookup {m : Fin 7} (h : tcsLookup a table = some m) : (a, m) ∈ table := by
  induction table with
  | nil => cases h
  | cons row rest ih =>
    obtain ⟨k, n⟩ := row
    rw [tcsLookup] at h
    split at h
    case isTrue hk =>
      cases h
      exact hk ▸ List.mem_cons_self
    case isFalse => exact List.mem_cons_of_mem _ (ih h)

/-- With no row for Off in the table, Off means that the byte is unknown (R175). -/
theorem tcsUnknown_iff_of_no_off (h : ∀ row ∈ p.tcsTable, row.2.val ≠ 0) :
    tcsUnknown p a = true ↔ tcsMode p a = 0#8 := by
  cases hm : tcsLookup a p.tcsTable with
  | none =>
    obtain ⟨hmode, hunknown⟩ := tcsMode_of_none hm
    simp only [hmode, hunknown]
  | some m =>
    obtain ⟨hmode, hunknown⟩ := tcsMode_of_some hm
    have hm0 : tcsMode p a ≠ 0#8 := fun h0 => h _ (mem_of_tcsLookup hm) (hmode.symm.trans (congrArg BitVec.toNat h0))
    simp only [hunknown, hm0, Bool.false_eq_true]

theorem tcsDefault_no_off : ∀ row ∈ tcsDefault, row.2.val ≠ 0 := by
  simp only [tcsDefault, List.forall_mem_cons, List.not_mem_nil, false_imp_iff, implies_true]
  decide

/-- The rows of the default table, written out (R175). -/
theorem tcsMode_default (h : p.tcsTable = tcsDefault) : tcsMode p a =
    if a = 0xA5#8 then 1#8 else if a = 0xA6#8 then 2#8 else if a = 0xA7#8 then 3#8
    else if a = 0xA9#8 then 4#8 else if a = 0xAA#8 then 5#8 else if a = 0xAB#8 then 6#8 else 0#8 := by
  simp only [tcsMode, h, tcsDefault, tcsLookup, eq_comm (b := a)]
  split_ifs <;> rfl

end

/-- `TCS.DEC` presents the mode on `r` and an unknown byte on `rate_invalid`, and emits no event (R175). -/
theorem exec_tcsDec_ends (s : State) : ∃ t, exec .tcsDec s = .next t ∧ EndedPure s t ∧
    t.res.r = tcsMode s.cfg s.ports.a ∧ t.status.rateInvalid = tcsUnknown s.cfg s.ports.a :=
  ⟨_, (exec_tcsDec s).trans (operate_true _ s),
    endedPure_finish (performs_setStatus (performs_setR (performs_refl _) _) _) rfl, rfl, rfl⟩

/-- Settles O54: a byte outside the table, the first row of a byte, and the default table. -/
theorem trickleChargerDecode : Obligations.TrickleChargerDecode := by
  intro s
  obtain ⟨t, ht, hpure, hr, hinvalid⟩ := exec_tcsDec_ends s
  refine ⟨t, ht, hpure, ?_, ?_, ?_⟩ <;> rw [hr, hinvalid]
  · exact fun hnone => tcsMode_of_none (tcsLookup_eq_none hnone)
  · exact fun before m after htable hfirst => tcsMode_of_some (by rw [htable, tcsLookup_of_first hfirst])
  · exact fun hdefault => ⟨tcsMode_default hdefault, tcsUnknown_iff_of_no_off (hdefault ▸ tcsDefault_no_off)⟩

end Sys2Proof.Machine
end

section
/-! PROOF. The accessor family (R180 to R199): the flag function on bytes, one register access as the whole of an
operation, the flag update as one read and at most one write, and the two signed results. -/

namespace Sys2Proof.Machine

open Sys2Proof

/-! ### The flag function (R180) -/

section
variable {cur mask : Byte} {want : Bool}

theorem flagDiffers_eq_false_iff :
    flagDiffers cur mask want = false ↔ cur &&& mask = if want then mask else 0x00#8 := by
  rw [Bool.eq_false_iff, Ne, flagDiffers_iff, not_not]

/-- With the masked bits at the target already, the update puts back what it masked out. -/
theorem flagUpdate_eq_self (h : flagDiffers cur mask want = false) : flagUpdate cur mask want = cur := by
  have htarget : flagTarget mask want = cur &&& mask := (flagDiffers_eq_false_iff.1 h).symm
  rw [flagUpdate, htarget]
  ext k hk
  simp only [BitVec.getElem_or, BitVec.getElem_and, BitVec.getElem_not]
  cases cur[k] <;> cases mask[k] <;> rfl

end

/-! ### How the operations end -/

section
variable (s : State)

/-- An operation that reads one register and presents a byte emits the events of that read alone. -/
theorem ends_memRead_setR (reg v : Byte) :
    ∃ evs, IsRegisterRead s.cfg reg (s.accept.memRead reg).1 evs ∧
      EndedWith s ((s.accept.memRead reg).2.setR v).finish evs := by
  obtain ⟨evs, hread, ht, -⟩ := transports_memRead reg s.accept
  exact ⟨evs, hread, endedWith_finish (performs_setR ht.toPerforms v)⟩

/-- An operation that writes one register emits the events of that write alone. -/
theorem ends_memWrite (reg v : Byte) :
    ∃ evs, IsRegisterWrite s.cfg reg v evs ∧ EndedWith s (s.accept.memWrite reg v).finish evs := by
  obtain ⟨evs, hwrite, ht, -⟩ := transports_memWrite reg v s.accept
  exact ⟨evs, hwrite, endedWith_finish ht.toPerforms⟩

/-- A flag update is one read, then one write exactly when the masked bits differ from the target (R181, R183). -/
theorem ends_flagSet (reg mask : Byte) (want : Bool) :
    ∃ cur rd wr, IsRegisterRead s.cfg reg cur rd ∧
      EndedWith s (s.accept.flagSet reg mask want).finish (rd ++ wr) ∧
      (let target := if want then mask else 0x00#8
       (cur &&& mask = target → (s.accept.flagSet reg mask want).status.wrNeeded = false ∧ wr = []) ∧
       (cur &&& mask ≠ target → (s.accept.flagSet reg mask want).status.wrNeeded = true ∧
         IsRegisterWrite s.cfg reg ((cur &&& ~~~mask) ||| target) wr)) := by
  obtain ⟨cur, rd, wr, hread, hp, hstatus, -, -, hwrite, hnone, -⟩ := performs_flagSet reg mask want s.accept
  refine ⟨cur, rd, wr, hread, endedWith_finish hp, fun heq => ?_, fun hne => ?_⟩ <;> rw [hstatus]
  · have hd := flagDiffers_eq_false_iff.2 heq
    exact ⟨hd, hnone hd⟩
  · have hd := (flagDiffers_iff cur mask want).2 hne
    exact ⟨hd, hwrite hd⟩

theorem exec_ramRd_of_outOfRange (h : ramOutOfRange s.cfg s.ports.a = true) :
    exec .ramRd s = .next ((s.accept.setR s.cfg.ramSentinel.toByte).setStatus
      { Status.zero with oor := true }).finish := by
  rw [exec_ramRd, operate_true, accept_cfg, accept_ports, h]
  rfl

/-- An operation that only presents a byte on `r` and status bits emits no event (R30). -/
theorem endedPure_setR_setStatus (v : Byte) (st : Status) : EndedPure s ((s.accept.setR v).setStatus st).finish :=
  endedPure_finish (performs_setStatus (performs_setR (performs_refl _) v) st) rfl

/-- An operation that only presents status bits emits no event (R30). -/
theorem endedPure_setStatus (st : Status) : EndedPure s (s.accept.setStatus st).finish :=
  endedPure_finish (performs_setStatus (performs_refl _) st) rfl

end

/-! ### The flag accessors and the register accesses (R180 to R186) -/

/-- Settles O56: the flag update of the operands. -/
theorem flagSetReadsThenWritesIfNeeded : Obligations.FlagSetReadsThenWritesIfNeeded := by
  intro s
  obtain ⟨cur, rd, wr, hread, hend, hbranch⟩ := ends_flagSet s s.ports.a s.ports.b s.ports.c
  exact ⟨_, cur, rd, wr, exec_flagSet s, hread, hend, hbranch⟩

/-- Settles O57: one access each; what is read decides what is presented. -/
theorem flagGetAndRegisterAccess : Obligations.FlagGetAndRegisterAccess := by
  intro s
  have hread := ends_memRead_setR s s.ports.a
  refine ⟨?_, ?_, ?_⟩
  · obtain ⟨evs, hr, hend⟩ := hread _
    exact ⟨_, _, evs, exec_flagGet s, hr, hend, bitByte_anyBitSet _ _⟩
  · obtain ⟨evs, hr, hend⟩ := hread _
    exact ⟨_, evs, exec_regRd s, hr, hend⟩
  · obtain ⟨evs, hw, hend⟩ := ends_memWrite s s.ports.a s.ports.b
    exact ⟨_, evs, exec_regWr s, hw, hend⟩

/-- Settles O55: the two formulas of R180. -/
theorem flagEvaluation : Obligations.FlagEvaluation := fun s =>
  ⟨_, exec_flagEval s, endedPure_setR_setStatus s _ _, flagDiffers_iff _ _ _, rfl, flagUpdate_eq_self⟩

/-! ### The RAM window (R187 to R189) -/

/-- An index inside the window: one read. -/
theorem exec_ramRd_inRange_ends {s : State} (h : s.ports.a.toNat < s.cfg.ramSize) :
    ∃ t, exec .ramRd s = .next t ∧ t.status.oor = false ∧
      ∃ evs, EndedWith s t evs ∧ IsRegisterRead s.cfg (ramAddr s.cfg s.ports.a) t.res.r evs := by
  obtain ⟨evs, hread, hend⟩ := ends_memRead_setR s (ramAddr s.cfg s.ports.a) _
  refine ⟨_, exec_ramRd_of_inRange s (ramOutOfRange_eq_false h), ?_, evs, hend, hread⟩
  rw [finish_status, setR_status, (carries_memRead _).status]
  rfl

/-- An index inside the window: one write. -/
theorem exec_ramWr_inRange_ends {s : State} (h : s.ports.a.toNat < s.cfg.ramSize) :
    ∃ t, exec .ramWr s = .next t ∧ t.status.oor = false ∧
      ∃ evs, EndedWith s t evs ∧ IsRegisterWrite s.cfg (ramAddr s.cfg s.ports.a) s.ports.b evs := by
  obtain ⟨evs, hwrite, hend⟩ := ends_memWrite s (ramAddr s.cfg s.ports.a) s.ports.b
  refine ⟨_, exec_ramWr_of_inRange s (ramOutOfRange_eq_false h), ?_, evs, hend, hwrite⟩
  rw [finish_status, (carries_memWrite _ _).status]
  rfl

/-- Settles O58: the bounds check alone decides between the sentinel or nothing, and one access. -/
theorem ramWindowAccess : Obligations.RamWindowAccess := by
  intro s
  by_cases h : s.ports.a.toNat < s.cfg.ramSize
  · have hin : ¬ s.cfg.ramSize ≤ s.ports.a.toNat := Nat.not_le.2 h
    obtain ⟨t, ht, hread⟩ := exec_ramRd_inRange_ends h
    obtain ⟨u, hu, hwrite⟩ := exec_ramWr_inRange_ends h
    exact ⟨⟨t, ht, fun hout => absurd hout hin, fun _ => hread⟩, ⟨u, hu, fun hout => absurd hout hin, fun _ => hwrite⟩⟩
  · have hout : ramOutOfRange s.cfg s.ports.a = true := decide_eq_true (Nat.not_lt.1 h)
    exact ⟨⟨_, exec_ramRd_of_outOfRange s hout, fun _ => ⟨endedPure_setR_setStatus s _ _, rfl, rfl⟩,
        fun hin => absurd hin h⟩,
      ⟨_, exec_ramWr_of_outOfRange s hout, fun _ => ⟨endedPure_setStatus s _, rfl⟩, fun hin => absurd hin h⟩⟩

/-! ### The running state (R193, R194) -/

/-- What `RUN.GET` presents for the byte read: the flag, as 0 or 1, differs from the stop value. -/
theorem bitByte_running (cur mask stop : Byte) : bitByte (bitByte (anyBitSet cur mask) != stop) =
    if (if cur &&& mask ≠ 0x00#8 then 0x01#8 else 0x00#8) ≠ stop then 0x01#8 else 0x00#8 := by
  rw [bitByte_bne, bitByte_anyBitSet]

/-- Settles O59: a read of the flag, and the flag update towards the state `runWanted` answers. -/
theorem runningState : Obligations.RunningState := by
  intro s
  constructor
  · obtain ⟨evs, hread, hend⟩ := ends_memRead_setR s s.cfg.runReg _
    exact ⟨_, _, evs, exec_runGet s, hread, hend, bitByte_running _ _ _⟩
  · obtain ⟨cur, rd, wr, hread, hend, hbranch⟩ := ends_flagSet s s.cfg.runReg s.cfg.runMask (runWanted s.cfg s.ports.c)
    exact ⟨_, cur, rd, wr, _, runWanted_spec s.cfg s.ports.c, exec_runSet s, hread, hend, hbranch⟩

/-! ### Aging and temperature (R198, R199) -/

theorem agingDecode_toInt (a : Byte) : (agingDecode a).toInt = a.toInt :=
  BitVec.toInt_signExtend_of_le (by decide)

/-- The high byte counts in units of 256 and carries the sign. -/
theorem temperatureDecode_toInt (hi lo : Byte) :
    (temperatureDecode hi lo).toInt = hi.toInt * 256 + ((lo &&& 0xC0#8).toNat : Int) := by
  rw [temperatureDecode, BitVec.toInt_append, if_neg (by decide), Int.mul_comm]
  rfl

/-- Settles O60: the sign extension and the joined bytes, as signed numbers. -/
theorem agingAndTemperature : Obligations.AgingAndTemperature := fun s =>
  ⟨⟨_, exec_ageDec s, endedPure_results s _, agingDecode_toInt _⟩,
    ⟨_, exec_tempDec s, endedPure_results s _, temperatureDecode_toInt _ _⟩⟩

end Sys2Proof.Machine
end

section
/-! PROOF. No operation aborts, faults or sticks (R205): the end of every operation, and from it an answer of every step. -/

namespace Sys2Proof.Machine

open Sys2Proof

/-- The refusal of R75 ends the operation like a completed body does: `done` is raised and the block is idle. -/
theorem ended_refuse (s : State) : Ended s s.refuse := by
  obtain ⟨⟨hend, -⟩, -⟩ := refused_refuse s
  exact hend

theorem exec_ends (i : Instr) (s : State) : ∃ t, exec i s = .next t ∧ Ended s t := by
  obtain ⟨t, _, ht, ⟨hend, -⟩, -⟩ := operationsActThroughEvents i s
  exact ⟨t, ht, hend⟩

/-- A request ends too: a reserved opcode is refused, and any other selects an operation. -/
theorem runRequest_ends (s : State) : ∃ t, runRequest s = .next t ∧ Ended s t := by
  cases hop : decode s.ports.op with
  | ok i =>
    rw [runRequest_of_decode_ok hop]
    exact exec_ends i s
  | error e => exact ⟨s.refuse, runRequest_of_decode_error hop, ended_refuse s⟩

/-- A pending reset cuts off an operation that has an end, so it abandons a state and never meets a fault (R225). -/
theorem serve_answers (s : State) : ∃ t, serve s = .next t := by
  obtain ⟨t, ht, -⟩ := runRequest_ends s
  cases hreset : s.resetIn with
  | none => exact ⟨t, by simp only [serve, hreset, ht]⟩
  | some k => exact ⟨s.abandon t k, by simp only [serve, hreset, ht, cutOff]⟩

theorem step_answers (s : State) : ∃ t, step s = .next t := by
  unfold step
  split
  · exact serve_answers s
  · exact ⟨s.rest, rfl⟩

/-- Settles O7: an operation ends as a refusal or with its last event, and a step serves a request or rests. -/
theorem everyOperationEnds : Obligations.EveryOperationEnds :=
  ⟨exec_ends, step_answers⟩

end Sys2Proof.Machine
end

section
/-! PROOF. Reset and the hazards (R225, R237, R241): a reset wherever it arrives, a `start` lost while busy, and the
invariant of the machine between steps. -/

namespace Sys2Proof.Machine

open Sys2Proof

/-! ### Steps in which no operation starts -/

section
variable {s : State}

theorem step_of_busy (hbusy : s.busy = true) : step s = .next s.rest := by
  simp only [step, hbusy, Bool.not_true, Bool.and_false, Bool.false_eq_true, if_false]

theorem rest_of_start (hreset : s.resetIn = none) (hstart : s.start = true) : s.rest = { s with start := false } := by
  simp only [State.rest, hreset, hstart, if_true]

theorem rest_of_reset {k : Nat} (hreset : s.resetIn = some k) : s.rest = s.resetEvent := by
  simp only [State.rest, hreset]

end

/-- Settles O5: a busy block rests, and the only thing a resting block does with `start` is to lower it. -/
theorem startWhileBusyIsLost : Obligations.StartWhileBusyIsLost := by
  intro s hstart hbusy hreset
  rw [step_of_busy hbusy, rest_of_start hreset hstart]

/-! ### Where a reset arrives (R225) -/

section
variable {s : State}

/-- The request of an idle block is cut off after `k` primitive steps. -/
theorem step_of_request_reset {t : State} {k : Nat} (hstart : s.start = true) (hbusy : s.busy = false)
    (hreset : s.resetIn = some k) (hrun : runRequest s = .next t) : step s = .next (s.abandon t k) := by
  simp only [step, serve, cutOff, hstart, hbusy, hreset, hrun, Bool.not_false, Bool.and_self, if_true]

/-- The first `k` events of an abandoned operation have happened, the rest have not. -/
theorem abandon_eq {t : State} {evs : List Event} (h : EndedWith s t evs) (k : Nat) :
    s.abandon t k = (State.emits (evs.take k) s).resetEvent := by
  obtain ⟨-, htrace, -⟩ := h
  rw [State.abandon, htrace, List.drop_left]

/-- A refused request has no primitive step for the reset to wait for (R75). -/
theorem abandon_refuse (k : Nat) : s.abandon s.refuse k = s.resetEvent := by
  rw [abandon_eq (endedWith_refuse s), List.take_nil, emits_nil]

/-- A reset that meets no operation takes effect at once. -/
theorem step_of_reset_without_operation {k : Nat} (hreset : s.resetIn = some k)
    (h : s.start = false ∨ s.busy = true ∨ ∃ e, decode s.ports.op = .error e) : step s = .next s.resetEvent := by
  cases hbusy : s.busy with
  | true => rw [step_of_busy hbusy, rest_of_reset hreset]
  | false =>
    cases hstart : s.start with
    | false => rw [step_of_no_start hstart, rest_of_reset hreset]
    | true =>
      rw [hstart, hbusy] at h
      obtain ⟨e, he⟩ := (h.resolve_left Bool.noConfusion).resolve_left Bool.noConfusion
      rw [step_of_request_reset hstart hbusy hreset (runRequest_of_decode_error he), abandon_refuse]

end

/-! ### What a reset leaves (R27) -/

section
variable (u : State)

theorem resetEvent_atReset : AtReset u.resetEvent := ⟨rfl, rfl, rfl, rfl, rfl, rfl, rfl⟩

theorem resetEvent_waits : Waits u.resetEvent := ⟨rfl, rfl, rfl, rfl⟩

@[simp] theorem resetEvent_trace : u.resetEvent.trace = u.trace ++ resetEvents := by
  rw [resetEvent_eq]
  rfl

@[simp] theorem resetEvent_env : u.resetEvent.env = u.env := rfl
@[simp] theorem resetEvent_cfg : u.resetEvent.cfg = u.cfg := rfl
@[simp] theorem resetEvent_ports : u.resetEvent.ports = u.ports := rfl
@[simp] theorem resetEvent_host : u.resetEvent.host = u.host := rfl

/-- After a reset the block waits for a host that has nothing to ask. -/
theorem step_resetEvent (h : u.host = []) : step u.resetEvent = .next u.resetEvent := by
  rw [step_of_no_start rfl, rest_of_no_move (s := u.resetEvent) rfl rfl h]

end

/-- Settles O6: with no operation the reset meets `s` itself, and with one it meets `s` after the first `k` events. -/
theorem resetAbandonsTheOperation : Obligations.ResetAbandonsTheOperation := by
  refine ⟨fun s k hreset h => ?_, fun s k i hreset hstart hbusy hop => ?_⟩
  · exact ⟨_, step_of_reset_without_operation hreset h, resetEvent_atReset s, resetEvent_waits s, resetEvent_trace s,
      rfl, rfl, rfl, rfl, step_resetEvent s⟩
  · obtain ⟨t, evs, hexec, hend, -⟩ := operationsActThroughEvents i s
    have hstep := step_of_request_reset hstart hbusy hreset ((runRequest_of_decode_ok hop).trans hexec)
    rw [abandon_eq hend] at hstep
    have hhost : (State.emits (evs.take k) s).host = s.host := emits_host _ s
    refine ⟨t, evs, _, hexec, hend, hstep, resetEvent_atReset _, resetEvent_waits _, ?_, ?_, ?_, ?_, ?_,
      fun h => step_resetEvent _ (hhost.trans h)⟩ <;> simp

/-! ### The clock line is low between steps (R90) -/

/-- `b` has the clock line low if `u` had. -/
def KeepsClockLow (u b : State) : Prop := u.pins.clk = false → b.pins.clk = false

theorem keepsClockLow_of_pins_eq {u b : State} (h : b.pins = u.pins) : KeepsClockLow u b := fun hu => by rw [h, hu]

theorem keepsClockLow_trans {u v w : State} (h : KeepsClockLow u v) (k : KeepsClockLow v w) : KeepsClockLow u w :=
  fun hu => k (h hu)

theorem keepsClockLow_ite {u b c : State} {x : Bool} (hb : KeepsClockLow u b) (hc : KeepsClockLow u c) :
    KeepsClockLow u (if x then b else c) := by
  cases x with
  | true => exact hb
  | false => exact hc

/-- The transport of the I2C chips leaves the lines alone (R13). -/
theorem keepsClockLow_of_i2c {u b : State} (h : Carries u b) (hc : u.cfg.chip ≠ .w3) : KeepsClockLow u b := by
  obtain ⟨evs, hp, ho, -⟩ := h.uses
  have hbus : ∀ e ∈ evs, isPinEvent e = false := fun e he => (ho e he).trans (decide_eq_false hc)
  exact keepsClockLow_of_pins_eq (hp.pins.trans (pins_foldl_i2c evs _ hbus))

section
variable (u : State)

theorem keepsClockLow_txnBegin : KeepsClockLow u u.txnBegin := fun _ => rfl

theorem keepsClockLow_txnEnd : KeepsClockLow u u.txnEnd := fun h => h

/-- A byte sent ends with the low half of its last pulse (R91, R92). -/
theorem keepsClockLow_sendByte (v : Byte) : KeepsClockLow u (u.sendByte v) := fun _ => by
  rw [sendByte_eq, setWork_pins, emits_pins, pins_foldl_send]

/-- So does a byte received (R92, R93). -/
theorem keepsClockLow_serialRead : KeepsClockLow u u.serialRead.2 := fun _ => by
  rw [serialRead_eq, setWork_pins, emits_pins, pins_foldl_receive (sampledAs_packBits _ (ahead_length _ 8))]

theorem keepsClockLow_sendBytes (vs : List Byte) : KeepsClockLow u (State.sendBytes vs u) := by
  induction vs generalizing u with
  | nil => exact fun h => h
  | cons v vs ih => exact keepsClockLow_trans (keepsClockLow_sendByte u v) (ih (u.sendByte v))

theorem keepsClockLow_readMany (n : Nat) : KeepsClockLow u (State.readMany State.serialRead n u).2 := by
  induction n generalizing u with
  | zero => exact fun h => h
  | succ n ih => exact keepsClockLow_trans (keepsClockLow_serialRead u) (ih u.serialRead.2)

/-- Framing entry and the command byte (R54, R96). -/
theorem keepsClockLow_command (cmd : Byte) : KeepsClockLow u (u.txnBegin.sendByte cmd) :=
  keepsClockLow_trans (keepsClockLow_txnBegin u) (keepsClockLow_sendByte _ cmd)

theorem keepsClockLow_w3Read (code : Byte) : KeepsClockLow u (u.w3Read code).2 :=
  keepsClockLow_trans (keepsClockLow_trans (keepsClockLow_command u code) (keepsClockLow_serialRead _))
    (keepsClockLow_txnEnd _)

theorem keepsClockLow_w3Write (code v : Byte) : KeepsClockLow u (u.w3Write code v) :=
  keepsClockLow_trans (keepsClockLow_trans (keepsClockLow_command u code) (keepsClockLow_sendByte _ v))
    (keepsClockLow_txnEnd _)

theorem keepsClockLow_w3BurstRead (cmd : Byte) (n : Nat) : KeepsClockLow u (u.w3BurstRead cmd n).2 :=
  keepsClockLow_trans (keepsClockLow_trans (keepsClockLow_command u cmd) (keepsClockLow_readMany _ n))
    (keepsClockLow_txnEnd _)

theorem keepsClockLow_w3BurstWrite (cmd : Byte) (vs : List Byte) : KeepsClockLow u (u.w3BurstWrite cmd vs) :=
  keepsClockLow_trans (keepsClockLow_trans (keepsClockLow_command u cmd) (keepsClockLow_sendBytes _ vs))
    (keepsClockLow_txnEnd _)

theorem keepsClockLow_memRead (a : Byte) : KeepsClockLow u (u.memRead a).2 := by
  by_cases hc : u.cfg.chip = .w3
  · simpa only [State.memRead, hc] using keepsClockLow_w3Read u (readCode a)
  · exact keepsClockLow_of_i2c (carries_memRead a) hc

theorem keepsClockLow_memWrite (a v : Byte) : KeepsClockLow u (u.memWrite a v) := by
  by_cases hc : u.cfg.chip = .w3
  · simpa only [State.memWrite, hc] using keepsClockLow_w3Write u a v
  · exact keepsClockLow_of_i2c (carries_memWrite a v) hc

theorem keepsClockLow_timeBurstRead : KeepsClockLow u u.timeBurstRead.2 := by
  by_cases hc : u.cfg.chip = .w3
  · simpa only [State.timeBurstRead, hc] using keepsClockLow_w3BurstRead u u.cfg.burstRd u.cfg.burstRdLen
  · exact keepsClockLow_of_i2c carries_timeBurstRead hc

theorem keepsClockLow_timeBurstWrite (q : Buf) : KeepsClockLow u (u.timeBurstWrite q) := by
  by_cases hc : u.cfg.chip = .w3
  · simpa only [State.timeBurstWrite, hc] using keepsClockLow_w3BurstWrite u u.cfg.burstWr (q.first 8)
  · exact keepsClockLow_of_i2c (carries_timeBurstWrite q) hc

/-- One read, and a write or none (R181). -/
theorem keepsClockLow_flagSet (reg mask : Byte) (want : Bool) : KeepsClockLow u (u.flagSet reg mask want) := by
  have hread : KeepsClockLow u (u.memRead reg).2 := keepsClockLow_memRead u reg
  have hbody : KeepsClockLow u (if flagDiffers (u.memRead reg).1 mask want
      then (u.memRead reg).2.memWrite reg (flagUpdate (u.memRead reg).1 mask want) else (u.memRead reg).2) :=
    keepsClockLow_ite (keepsClockLow_trans hread (keepsClockLow_memWrite _ reg _)) hread
  exact hbody

end

/-- The operation ends with the clock line low if it found it low. -/
def EndsClockLow (i : Instr) (s : State) : Prop := ∃ t, exec i s = .next t ∧ KeepsClockLow s t

/-- Acceptance, the end and refusal do not move the lines, so the body decides. -/
theorem endsClockLow_of_body {i : Instr} {s : State} {ok : Bool} {body : State → State}
    (he : exec i s = s.operate ok body) (h : KeepsClockLow s.accept (body s.accept)) : EndsClockLow i s := by
  obtain ⟨-, ho⟩ | ⟨-, ho⟩ := operate_cases ok body s
  · exact ⟨_, he.trans ho, h⟩
  · exact ⟨_, he.trans ho, keepsClockLow_of_pins_eq (refuse_pins s)⟩

/-- An operation that reaches the device and then presents what it read. -/
theorem endsClockLow_of_reads {i : Instr} {s b : State} {ok : Bool} {body : State → State}
    (he : exec i s = s.operate ok body) (hb : KeepsClockLow s.accept b) (hbody : (body s.accept).pins = b.pins) :
    EndsClockLow i s :=
  endsClockLow_of_body he (keepsClockLow_trans hb (keepsClockLow_of_pins_eq hbody))

/-- An operation that presents results and does nothing else. -/
theorem endsClockLow_of_pure {i : Instr} {s t : State} (he : exec i s = .next t) (h : t.pins = s.pins) :
    EndsClockLow i s :=
  ⟨t, he, keepsClockLow_of_pins_eq h⟩

/-- The I2C family is refused on 3W (R75), and reaches no pin on the other chips (R13). -/
theorem endsClockLow_of_i2c {i : Instr} (hi : i.family = .i2c) (s : State) : EndsClockLow i s := by
  by_cases hc : s.cfg.chip = .w3
  · have hill : IllFormed i s.cfg s.ports.n := .inr (.inl ⟨hi, hc⟩)
    exact endsClockLow_of_pure (exec_of_not_wellFormed fun hwf => (wellFormed_iff.1 hwf).1 hill) (refuse_pins s)
  · obtain ⟨t, evs, he, -, -, hbus⟩ := eachChipUsesItsTransport i s
    obtain ⟨-, hpins, -⟩ := hbus hc
    exact endsClockLow_of_pure he hpins

/-- No operation leaves the clock line high, said once for all of them. -/
theorem endsClockLow (i : Instr) (s : State) : EndsClockLow i s := by
  cases i with
  | serWrb => exact endsClockLow_of_body (exec_serWrb s) (keepsClockLow_sendByte _ _)
  | serRdb => exact endsClockLow_of_reads (exec_serRdb s) (keepsClockLow_serialRead s.accept) rfl
  | txnBegin => exact endsClockLow_of_body (exec_txnBegin s) (keepsClockLow_txnBegin _)
  | txnEnd => exact endsClockLow_of_body (exec_txnEnd s) (keepsClockLow_txnEnd _)
  | w3Rd => exact endsClockLow_of_reads (exec_w3Rd s) (keepsClockLow_w3Read s.accept s.ports.a) rfl
  | w3Wr => exact endsClockLow_of_body (exec_w3Wr s) (keepsClockLow_w3Write _ _ _)
  | w3Brd =>
    exact endsClockLow_of_reads (exec_w3Brd s) (keepsClockLow_w3BurstRead s.accept s.ports.a s.ports.n.toNat) rfl
  | w3Bwr => exact endsClockLow_of_body (exec_w3Bwr s) (keepsClockLow_w3BurstWrite _ _ _)
  | i2cRd | i2cWr | i2cBrd | i2cBwr | i2cProbe => exact endsClockLow_of_i2c rfl s
  | timeGet => exact endsClockLow_of_reads (exec_timeGet s) (keepsClockLow_timeBurstRead s.accept) rfl
  | timeSet =>
    have hwrite := keepsClockLow_timeBurstWrite (s.accept.setRbuf (timeEncode s.cfg.chip s.cfg s.ports.t))
      (timeEncode s.cfg.chip s.cfg s.ports.t)
    exact endsClockLow_of_body (exec_timeSet s) hwrite
  | flagSet => exact endsClockLow_of_body (exec_flagSet s) (keepsClockLow_flagSet _ _ _ _)
  | runSet => exact endsClockLow_of_body (exec_runSet s) (keepsClockLow_flagSet _ _ _ _)
  | flagGet => exact endsClockLow_of_reads (exec_flagGet s) (keepsClockLow_memRead s.accept s.ports.a) rfl
  | runGet => exact endsClockLow_of_reads (exec_runGet s) (keepsClockLow_memRead s.accept s.cfg.runReg) rfl
  | regRd => exact endsClockLow_of_reads (exec_regRd s) (keepsClockLow_memRead s.accept s.ports.a) rfl
  | regWr => exact endsClockLow_of_body (exec_regWr s) (keepsClockLow_memWrite _ _ _)
  | ramRd =>
    have hread := keepsClockLow_memRead s.accept (ramAddr s.cfg s.ports.a)
    exact endsClockLow_of_body (exec_ramRd s)
      (keepsClockLow_ite (keepsClockLow_of_pins_eq rfl) (keepsClockLow_trans hread (keepsClockLow_of_pins_eq rfl)))
  | ramWr =>
    exact endsClockLow_of_body (exec_ramWr s)
      (keepsClockLow_ite (keepsClockLow_of_pins_eq rfl) (keepsClockLow_memWrite _ _ _))
  | bcdDec | bcdEnc | timeDec3W | timeDecA | timeDecB | timeDecC | timeDecD | timeEnc3W | timeEncA | timeEncB
  | timeEncC | timeEncD | alm4Dec | alm4Enc | alm3Dec | alm3Enc | almdDec | almdEnc | tcsDec | flagEval | ageDec
  | tempDec => exact endsClockLow_of_pure rfl rfl

/-! ### The invariant (R13, R42, R90, R94, R238, R241) -/

/-- Where events leave the clock and the enable line depends on these two alone among the lines they start from. -/
theorem clk_en_foldl_congr (evs : List Event) {p q : Pins} (hclk : p.clk = q.clk) (hen : p.en = q.en) :
    (evs.foldl Pins.after p).clk = (evs.foldl Pins.after q).clk ∧
      (evs.foldl Pins.after p).en = (evs.foldl Pins.after q).en := by
  induction evs generalizing p q with
  | nil => exact ⟨hclk, hen⟩
  | cons e es ih =>
    cases e with
    | clk b => exact ih rfl hen
    | en b => exact ih hclk rfl
    | _ => exact ih hclk hen

/-- What stands before a legal use of the line is legal too. -/
theorem lineAfter_take {d d' : Dir} {evs : List Event} (h : lineAfter d evs = some d') (k : Nat) :
    ∃ d'', lineAfter d (evs.take k) = some d'' := by
  rw [← List.take_append_drop k evs, lineAfter_append] at h
  obtain ⟨d'', hd, -⟩ := Option.bind_eq_some_iff.1 h
  exact ⟨d'', hd⟩

section
variable {s t : State}

theorem busy_of_inv (hs : s.Inv) : s.busy = false := by
  obtain ⟨hbusy, -⟩ := hs
  exact hbusy

/-- An operation or a refusal keeps the invariant: its events continue a trace that accounts for the lines. -/
theorem inv_of_endedWith {evs : List Event} (hs : s.Inv) (h : EndedWith s t evs)
    (hline : lineAfter s.pins.dir evs = some t.pins.dir) (hkeeps : KeepsClockLow s t)
    (hbus : s.cfg.chip ≠ .w3 → t.pins = s.pins) : t.Inv := by
  obtain ⟨-, -, hlow, hlegal, htclk, hten, hrest, hwf⟩ := hs
  obtain ⟨⟨hbusy, -, hphase, -, hcfg, -⟩, htrace, hpins, henv⟩ := h
  obtain ⟨hclk, hen⟩ := clk_en_foldl_congr evs htclk hten
  refine ⟨hbusy, hphase, hkeeps hlow, ?_, ?_, ?_, fun hc => ?_, ?_⟩
  · rw [htrace, lineAfter_append, hlegal]
    exact hline
  · rw [htrace, List.foldl_append, hpins, hclk]
  · rw [htrace, List.foldl_append, hpins, hen]
  · rw [hcfg] at hc
    rw [hbus hc, hrest hc]
  · rw [henv]
    exact wf_foldl_after evs _ hwf

/-- A reset needs of the state it meets only a legal trace and a canonical memory: its events put the lines at rest. -/
theorem inv_resetEvent {d : Dir} (hline : lineAfter .inp s.trace = some d) (hwf : s.env.mem.wf = true) :
    s.resetEvent.Inv := by
  refine ⟨rfl, rfl, rfl, ?_, ?_, ?_, fun _ => rfl, hwf⟩
  · rw [resetEvent_trace, lineAfter_append, hline]
    rfl
  all_goals
    rw [resetEvent_trace, List.foldl_append]
    rfl

/-- A move of the host touches its ports, `start`, the reset input and the list of moves alone. -/
theorem inv_hostMove (hs : s.Inv) (m : HostMove) (ms : List HostMove) :
    (State.hostMove m { s with host := ms }).Inv := by
  cases m with
  | issue r => exact hs
  | reset => exact hs
  | issueThenReset r k => exact hs

theorem inv_rest (hs : s.Inv) (hstart : s.start = false) : s.rest.Inv := by
  cases hreset : s.resetIn with
  | some k =>
    obtain ⟨-, -, -, hlegal, -, -, -, hwf⟩ := hs
    rw [rest_of_reset hreset]
    exact inv_resetEvent hlegal hwf
  | none =>
    cases hhost : s.host with
    | nil => rwa [rest_of_no_move hstart hreset hhost]
    | cons m ms =>
      rw [rest_of_move hstart hreset hhost]
      exact inv_hostMove hs m ms

/-- An operation abandoned after any number of its events, each of which used the line legally. -/
theorem inv_abandon {evs : List Event} (hs : s.Inv) (h : EndedWith s t evs) {d : Dir}
    (hline : lineAfter s.pins.dir evs = some d) (k : Nat) : (s.abandon t k).Inv := by
  obtain ⟨-, -, -, hlegal, -, -, -, hwf⟩ := hs
  obtain ⟨d', hfirst⟩ := lineAfter_take hline k
  rw [abandon_eq h]
  refine inv_resetEvent (d := d') ?_ ?_
  · rw [emits_trace, lineAfter_append, hlegal]
    exact hfirst
  · rw [emits_env]
    exact wf_foldl_after _ _ hwf

/-- What the invariant needs of a request, an operation or a refusal. -/
theorem runRequest_acts (s : State) : ∃ t evs, runRequest s = .next t ∧ EndedWith s t evs ∧
    lineAfter s.pins.dir evs = some t.pins.dir ∧ KeepsClockLow s t ∧ (s.cfg.chip ≠ .w3 → t.pins = s.pins) := by
  cases hop : decode s.ports.op with
  | error e =>
    exact ⟨s.refuse, [], runRequest_of_decode_error hop, endedWith_refuse s, rfl, fun h => h, fun _ => rfl⟩
  | ok i =>
    obtain ⟨t, evs, ht, hend, hline⟩ := operationsActThroughEvents i s
    obtain ⟨t', ht', hclk⟩ := endsClockLow i s
    obtain ⟨t'', _, ht'', -, -, hbus⟩ := eachChipUsesItsTransport i s
    cases ht'.symm.trans ht
    cases ht''.symm.trans ht
    refine ⟨t, evs, (runRequest_of_decode_ok hop).trans ht, hend, hline, hclk, fun hc => ?_⟩
    obtain ⟨-, hpins, -⟩ := hbus hc
    exact hpins

end

/-- Settles O10: a step is a rest, a request run to its end, or a request that a reset cuts off. -/
theorem invariantKeptByEveryStep : Obligations.InvariantKeptByEveryStep := by
  intro s t hs ht
  have hbusy := busy_of_inv hs
  cases hstart : s.start with
  | false =>
    cases (step_of_no_start hstart).symm.trans ht
    exact inv_rest hs hstart
  | true =>
    obtain ⟨u, evs, hrun, hend, hline, hclk, hbus⟩ := runRequest_acts s
    cases hreset : s.resetIn with
    | none =>
      cases ((step_of_request hstart hbusy hreset).trans hrun).symm.trans ht
      exact inv_of_endedWith hs hend hline hclk hbus
    | some k =>
      cases (step_of_request_reset hstart hbusy hreset hrun).symm.trans ht
      exact inv_abandon hs hend hline k

end Sys2Proof.Machine
end
